-- ==== Sys2Proof/Word.lean ====
section
/-! DEFINITION. The words of TGX: what the spec treats as bits and nothing else. -/

namespace Sys2Proof

/-- A byte of a packet, of a response, of a wire transaction or of a chip register (R10). -/
abbrev Byte := BitVec 8

/-- A 7-bit bus address (R46). -/
abbrev Addr := BitVec 7

/-- A timestamp: `TS_WIDTH` bits at the default width 64 (R9; log 2). -/
abbrev Timestamp := BitVec 64

end Sys2Proof
end

