-- ==== Sys2Proof/Syntax.lean ====
section
/-! DEFINITION. The commands of TGX as syntax: one constructor of `Instr` for each of the 28 rows of
spec/opcode_table.json (30_encoding.md R103), and the operand types they carry. -/

namespace Sys2Proof

/-- A bus handle: the physical bus itself, or one of the eight channels behind the multiplexer (R13, R99). -/
inductive BusHandle where
  | direct
  | channel (n : Fin 8)
  deriving DecidableEq, Repr, Inhabited

/-- A typed pin identity `(chip, port, bit)`; `chip` is the chip index `A - 0x58` (R14, R180). -/
structure Pin where
  chip : Fin 3
  port : Fin 2
  bit : Fin 8
  deriving DecidableEq, Repr, Inhabited

/-- One operation of a wire transaction: `Write(w)` or `Read(n)` (R60). -/
inductive BusOp where
  | write (bytes : List Byte)
  | read (len : Byte)
  deriving DecidableEq, Repr, Inhabited

/-- The six snapshot bytes `S0..S5` of a packet (R101, R200). -/
structure Snapshot where
  s0 : Byte
  s1 : Byte
  s2 : Byte
  s3 : Byte
  s4 : Byte
  s5 : Byte
  deriving DecidableEq, Repr, Inhabited

/-- The mode of a pin (R42, R154). -/
inductive PinMode where
  | led
  | gpio
  deriving DecidableEq, Repr, Inhabited

/-- The direction of a pin (R38, R155). -/
inductive PinDir where
  | output
  | input
  deriving DecidableEq, Repr, Inhabited

/-- An electrical level (R37, R156). -/
inductive Level where
  | low
  | high
  deriving DecidableEq, Repr, Inhabited

/-- The commands of R103, in the table's order, each with the operands of its format (R101). -/
inductive Instr where
  /-- `BUS_READ` (0x01, FBR; R135). -/
  | busRead (h : BusHandle) (a : Addr) (rlen : Byte)
  /-- `BUS_WRITE` (0x02, FBW; R136); `WLEN` is the length of `w`. -/
  | busWrite (h : BusHandle) (a : Addr) (w : List Byte)
  /-- `BUS_WRITE_READ` (0x03, FBWR; R137). -/
  | busWriteRead (h : BusHandle) (a : Addr) (w : List Byte) (rlen : Byte)
  /-- `BUS_TRANSACTION` (0x04, FBT; R138); `NOPS` is the length of `ops`. -/
  | busTransaction (h : BusHandle) (a : Addr) (ops : List BusOp)
  /-- `REG_READ` (0x10, FR; R150). -/
  | regRead (h : BusHandle) (a : Addr) (g : Byte)
  /-- `REG_WRITE` (0x11, FRW; R151). -/
  | regWrite (h : BusHandle) (a : Addr) (g : Byte) (v : Byte)
  /-- `CHIP_INIT` (0x12, FC; R153). -/
  | chipInit (c : Fin 3)
  /-- `PIN_SET_MODE` (0x20, FPV; R154). -/
  | pinSetMode (p : Pin) (m : PinMode)
  /-- `PIN_SET_DIR` (0x21, FPV; R155). -/
  | pinSetDir (p : Pin) (d : PinDir)
  /-- `PIN_SET_STATE` (0x22, FPV; R156). -/
  | pinSetState (p : Pin) (l : Level)
  /-- `PIN_SET_DUTY` (0x23, FPV; R157). -/
  | pinSetDuty (p : Pin) (duty : Byte)
  /-- `PIN_SET_DUTY_FRAC` (0x24, FPF; R159). -/
  | pinSetDutyFrac (p : Pin) (num : BitVec 16) (den : BitVec 16)
  /-- `PIN_SET_DUTY_PCT` (0x25, FPV; R160). -/
  | pinSetDutyPct (p : Pin) (pct : Byte)
  /-- `PIN_MAX_DUTY` (0x26, F0; R158). -/
  | pinMaxDuty
  /-- `CAP_INTO_OUTPUT` (0x30, FP; R184). -/
  | capIntoOutput (p : Pin)
  /-- `CAP_INTO_INPUT` (0x31, FP; R185). -/
  | capIntoInput (p : Pin)
  /-- `CAP_INTO_LED` (0x32, FP; R186). -/
  | capIntoLed (p : Pin)
  /-- `CAP_OUT_SET` (0x33, FPV; R187). -/
  | capOutSet (p : Pin) (l : Level)
  /-- `CAP_IN_READ` (0x34, FP; R188). -/
  | capInRead (p : Pin)
  /-- `CAP_LED_DUTY` (0x35, FPV; R189). -/
  | capLedDuty (p : Pin) (duty : Byte)
  /-- `CAP_LED_DUTY_FRAC` (0x36, FPF; R190). -/
  | capLedDutyFrac (p : Pin) (num : BitVec 16) (den : BitVec 16)
  /-- `CAP_LED_DUTY_PCT` (0x37, FPV; R191). -/
  | capLedDutyPct (p : Pin) (pct : Byte)
  /-- `PID_ENCODE` (0x38, FP; R181). -/
  | pidEncode (p : Pin)
  /-- `SNAP_READ` (0x40, F0; R201). -/
  | snapRead
  /-- `SNAP_PIN_STATE` (0x41, FPS; R204). -/
  | snapPinState (p : Pin) (snap : Snapshot)
  /-- `BTN_UPDATE` (0x50, FS; R216). -/
  | btnUpdate (snap : Snapshot)
  /-- `HEX_UPDATE` (0x60, FS; R236). -/
  | hexUpdate (snap : Snapshot)
  /-- `HEX_SET_ENABLED` (0x61, FC; R243, R125). -/
  | hexSetEnabled (slot : Fin 6) (enable : Bool)
  deriving DecidableEq, Repr, Inhabited

end Sys2Proof
end

