-- ==== Sys2Proof/WellFormed.lean ====
section
/-! DEFINITION. Which terms of `Instr` some packet stands for. The types of Syntax.lean already rule out an
out-of-range handle, address, pin, chip, slot and one-bit operand (R112); what is left is the one-byte length
fields (R101, `MAX_LEN` = 255 of R9) and the percent range (R160). A length of 0, `DEN = 0` and `NUM > DEN` are
well formed: R112 refuses them when the command starts, not when it is decoded. -/

namespace Sys2Proof

/-- A byte string fits a one-byte length field (R101; `MAX_LEN`, R9). -/
def payloadFits (w : List Byte) : Bool := w.length ≤ 255

/-- One descriptor of `BUS_TRANSACTION` fits its `LEN` field (R101). -/
def descriptorFits : BusOp → Bool
  | .write d => payloadFits d
  | .read _ => true

/-- The descriptors of `BUS_TRANSACTION` fit the `NOPS` field and each its own `LEN` field (R101). -/
def descriptorsFit (ops : List BusOp) : Bool := ops.length ≤ 255 && ops.all descriptorFits

/-- A percent operand is in range (R110, R112, R160). -/
def percentInRange (pct : Byte) : Bool := pct.toNat ≤ 100

/-- The commands that some packet encodes. -/
def Instr.wf : Instr → Bool
  | .busRead _ _ _ => true
  | .busWrite _ _ w => payloadFits w
  | .busWriteRead _ _ w _ => payloadFits w
  | .busTransaction _ _ ops => descriptorsFit ops
  | .regRead _ _ _ => true
  | .regWrite _ _ _ _ => true
  | .chipInit _ => true
  | .pinSetMode _ _ => true
  | .pinSetDir _ _ => true
  | .pinSetState _ _ => true
  | .pinSetDuty _ _ => true
  | .pinSetDutyFrac _ _ _ => true
  | .pinSetDutyPct _ pct => percentInRange pct
  | .pinMaxDuty => true
  | .capIntoOutput _ => true
  | .capIntoInput _ => true
  | .capIntoLed _ => true
  | .capOutSet _ _ => true
  | .capInRead _ => true
  | .capLedDuty _ _ => true
  | .capLedDutyFrac _ _ _ => true
  | .capLedDutyPct _ pct => percentInRange pct
  | .pidEncode _ => true
  | .snapRead => true
  | .snapPinState _ _ => true
  | .btnUpdate _ => true
  | .hexUpdate _ => true
  | .hexSetEnabled _ _ => true

end Sys2Proof
end

