-- ==== Sys2Proof/Decode.lean ====
section
/-! DEFINITION. Command packets: the decoder (30_encoding.md R97 to R103, R110, R112), total on any byte string and
rejecting by name, and after it the encoder, written from the same tables. -/

namespace Sys2Proof

/-- Why a byte string is an illegal packet (R112). All are answered alike, with `ILLEGAL`. -/
inductive DecodeError where
  /-- The opcode byte is none of the 28 of R103, or there is no byte at all. -/
  | reservedOpcode
  /-- The length is not the one R102 determines. -/
  | wrongLength
  /-- A descriptor `KIND` above 1. -/
  | badKind
  /-- `BUSSEL` above 8. -/
  | badBussel
  /-- Bit 7 of `ADDR` is set. -/
  | badAddr
  /-- `PID` bits 7:6 are not zero, or its chip index is 3. -/
  | badPid
  /-- A one-bit `VAL` above 1. -/
  | badVal
  /-- A percent above 100. -/
  | badPercent
  /-- `ARG` out of range. -/
  | badArg
  deriving DecidableEq, Repr, Inhabited

/-! ## Operand fields -/

/-- The field `BUSSEL` (R99). -/
def readBussel (b : Byte) : Except DecodeError BusHandle :=
  if h : b.toNat < 8 then .ok (.channel ⟨b.toNat, h⟩)
  else if b.toNat = 8 then .ok .direct
  else .error .badBussel

/-- The field `ADDR`: a 7-bit address, bit 7 zero (R101). -/
def readAddr (b : Byte) : Except DecodeError Addr :=
  if b.toNat < 128 then .ok (BitVec.ofNat 7 b.toNat) else .error .badAddr

/-- The field `PID`: chip index in bits 5:4, port in bit 3, bit index in bits 2:0 (R100). -/
def readPid (b : Byte) : Except DecodeError Pin :=
  if h : b.toNat / 16 < 3 then
    .ok ⟨⟨b.toNat / 16, h⟩, ⟨b.toNat / 8 % 2, Nat.mod_lt _ (by decide)⟩,
      ⟨b.toNat % 8, Nat.mod_lt _ (by decide)⟩⟩
  else .error .badPid

/-- A one-bit operand in a `VAL` byte: 0 is the first meaning, 1 the second, no other value is legal (R110). -/
def readBit {α : Type} (zero one : α) (b : Byte) : Except DecodeError α :=
  match b.toNat with
  | 0 => .ok zero
  | 1 => .ok one
  | _ => .error .badVal

/-- A percent operand, 0 to 100 (R112, R160). -/
def readPercent (b : Byte) : Except DecodeError Byte :=
  if percentInRange b then .ok b else .error .badPercent

/-- `ARG` of `CHIP_INIT`: 0, 1 or 2 (R110). -/
def readChipArg (b : Byte) : Except DecodeError (Fin 3) :=
  if h : b.toNat < 3 then .ok ⟨b.toNat, h⟩ else .error .badArg

/-- `ARG` of `HEX_SET_ENABLED`: `slot | (enable << 3)`, slot 0 to 5, bits 7:4 zero (R110, R125). -/
def readSlotArg (b : Byte) : Except DecodeError (Fin 6 × Bool) :=
  if h : b.toNat % 8 < 6 ∧ b.toNat < 16 then .ok (⟨b.toNat % 8, h.1⟩, decide (8 ≤ b.toNat)) else .error .badArg

/-- A 16-bit operand, low byte first (R65, R101). -/
def readWord16 (lo hi : Byte) : BitVec 16 := BitVec.ofNat 16 (lo.toNat + 256 * hi.toNat)

/-! ## Formats (R101)

Each takes the bytes after the opcode; the length is looked at before any operand (R267). -/

/-- Format `F0`. -/
def readF0 (i : Instr) : List Byte → Except DecodeError Instr
  | [] => .ok i
  | _ => .error .wrongLength

/-- Format `FP`. -/
def readFP (mk : Pin → Instr) : List Byte → Except DecodeError Instr
  | [p] => (readPid p).map mk
  | _ => .error .wrongLength

/-- Format `FPV`, with the reading of its `VAL` byte. -/
def readFPV {α : Type} (val : Byte → Except DecodeError α) (mk : Pin → α → Instr) :
    List Byte → Except DecodeError Instr
  | [p, v] => (readPid p).bind fun p => (val v).map fun v => mk p v
  | _ => .error .wrongLength

/-- Format `FPF`. -/
def readFPF (mk : Pin → BitVec 16 → BitVec 16 → Instr) : List Byte → Except DecodeError Instr
  | [p, nl, nh, dl, dh] => (readPid p).map fun p => mk p (readWord16 nl nh) (readWord16 dl dh)
  | _ => .error .wrongLength

/-- Format `FS`. -/
def readFS (mk : Snapshot → Instr) : List Byte → Except DecodeError Instr
  | [s0, s1, s2, s3, s4, s5] => .ok (mk ⟨s0, s1, s2, s3, s4, s5⟩)
  | _ => .error .wrongLength

/-- Format `FPS`. -/
def readFPS (mk : Pin → Snapshot → Instr) : List Byte → Except DecodeError Instr
  | [p, s0, s1, s2, s3, s4, s5] => (readPid p).map fun p => mk p ⟨s0, s1, s2, s3, s4, s5⟩
  | _ => .error .wrongLength

/-- Format `FC`, with the reading of its `ARG` byte. -/
def readFC {α : Type} (arg : Byte → Except DecodeError α) (mk : α → Instr) : List Byte → Except DecodeError Instr
  | [b] => (arg b).map mk
  | _ => .error .wrongLength

/-- The fields `BUSSEL` and `ADDR` that open every bus format. -/
def readTarget (mk : BusHandle → Addr → Instr) (b a : Byte) : Except DecodeError Instr :=
  (readBussel b).bind fun h => (readAddr a).map fun a => mk h a

/-- Formats `FR` and `FBR`: a target and one byte. -/
def readFR (mk : BusHandle → Addr → Byte → Instr) : List Byte → Except DecodeError Instr
  | [b, a, x] => readTarget (fun h a => mk h a x) b a
  | _ => .error .wrongLength

/-- Format `FRW`: a target and two bytes. -/
def readFRW (mk : BusHandle → Addr → Byte → Byte → Instr) : List Byte → Except DecodeError Instr
  | [b, a, x, y] => readTarget (fun h a => mk h a x y) b a
  | _ => .error .wrongLength

/-- Format `FBW`: a target, `WLEN`, and `WLEN` bytes. -/
def readFBW (mk : BusHandle → Addr → List Byte → Instr) : List Byte → Except DecodeError Instr
  | b :: a :: n :: w => if w.length = n.toNat then readTarget (fun h a => mk h a w) b a else .error .wrongLength
  | _ => .error .wrongLength

/-- Format `FBWR`: a target, `WLEN`, `RLEN`, and `WLEN` bytes. -/
def readFBWR (mk : BusHandle → Addr → List Byte → Byte → Instr) : List Byte → Except DecodeError Instr
  | b :: a :: n :: r :: w => if w.length = n.toNat then readTarget (fun h a => mk h a w r) b a else .error .wrongLength
  | _ => .error .wrongLength

/-- `NOPS` operation descriptors and nothing after them: `[0, LEN]` a read, `[1, LEN, D..]` a write (R101). -/
def readDescriptors : Nat → List Byte → Except DecodeError (List BusOp)
  | 0, [] => .ok []
  | 0, _ :: _ => .error .wrongLength
  | n + 1, kind :: len :: rest =>
    match kind.toNat with
    | 0 => (readDescriptors n rest).map fun ops => .read len :: ops
    | 1 =>
      if len.toNat ≤ rest.length then
        (readDescriptors n (rest.drop len.toNat)).map fun ops => .write (rest.take len.toNat) :: ops
      else .error .wrongLength
    | _ => .error .badKind
  | _ + 1, _ => .error .wrongLength

/-- Format `FBT`: a target, `NOPS`, and the descriptors. -/
def readFBT (mk : BusHandle → Addr → List BusOp → Instr) : List Byte → Except DecodeError Instr
  | b :: a :: n :: ds => (readDescriptors n.toNat ds).bind fun ops => readTarget (fun h a => mk h a ops) b a
  | _ => .error .wrongLength

/-! ## The decoder -/

/-- Decode one command packet, whole (R97, R102, R103). -/
def decode : List Byte → Except DecodeError Instr
  | [] => .error .reservedOpcode
  | op :: rest =>
    match op.toNat with
    | 0x01 => readFR .busRead rest
    | 0x02 => readFBW .busWrite rest
    | 0x03 => readFBWR .busWriteRead rest
    | 0x04 => readFBT .busTransaction rest
    | 0x10 => readFR .regRead rest
    | 0x11 => readFRW .regWrite rest
    | 0x12 => readFC readChipArg .chipInit rest
    | 0x20 => readFPV (readBit PinMode.led .gpio) .pinSetMode rest
    | 0x21 => readFPV (readBit PinDir.output .input) .pinSetDir rest
    | 0x22 => readFPV (readBit Level.low .high) .pinSetState rest
    | 0x23 => readFPV .ok .pinSetDuty rest
    | 0x24 => readFPF .pinSetDutyFrac rest
    | 0x25 => readFPV readPercent .pinSetDutyPct rest
    | 0x26 => readF0 .pinMaxDuty rest
    | 0x30 => readFP .capIntoOutput rest
    | 0x31 => readFP .capIntoInput rest
    | 0x32 => readFP .capIntoLed rest
    | 0x33 => readFPV (readBit Level.low .high) .capOutSet rest
    | 0x34 => readFP .capInRead rest
    | 0x35 => readFPV .ok .capLedDuty rest
    | 0x36 => readFPF .capLedDutyFrac rest
    | 0x37 => readFPV readPercent .capLedDutyPct rest
    | 0x38 => readFP .pidEncode rest
    | 0x40 => readF0 .snapRead rest
    | 0x41 => readFPS .snapPinState rest
    | 0x50 => readFS .btnUpdate rest
    | 0x60 => readFS .hexUpdate rest
    | 0x61 => readFC readSlotArg (fun x => .hexSetEnabled x.1 x.2) rest
    | _ => .error .reservedOpcode

/-! ## Length determination (R102) -/

/-- How many bytes `n` descriptors take, read from the start of `bs`; a byte beyond the end reads as zero. -/
def descriptorsLength : Nat → List Byte → Nat
  | 0, _ => 0
  | n + 1, bs =>
    let here := if (bs.getD 0 0).toNat = 1 then 2 + (bs.getD 1 0).toNat else 2
    here + descriptorsLength n (bs.drop here)

/-- The length R102 determines from the opcode and, for `FBW`, `FBWR` and `FBT`, from the length fields inside the
packet; a byte beyond the end reads as zero. A reserved opcode determines no length: the byte itself is taken. -/
def packetLength (bs : List Byte) : Nat :=
  match (bs.getD 0 0).toNat with
  | 0x01 => 4
  | 0x02 => 4 + (bs.getD 3 0).toNat
  | 0x03 => 5 + (bs.getD 3 0).toNat
  | 0x04 => 4 + descriptorsLength (bs.getD 3 0).toNat (bs.drop 4)
  | 0x10 => 4
  | 0x11 => 5
  | 0x12 => 2
  | 0x20 => 3
  | 0x21 => 3
  | 0x22 => 3
  | 0x23 => 3
  | 0x24 => 6
  | 0x25 => 3
  | 0x26 => 1
  | 0x30 => 2
  | 0x31 => 2
  | 0x32 => 2
  | 0x33 => 3
  | 0x34 => 2
  | 0x35 => 3
  | 0x36 => 6
  | 0x37 => 3
  | 0x38 => 2
  | 0x40 => 1
  | 0x41 => 8
  | 0x50 => 7
  | 0x60 => 7
  | 0x61 => 2
  | _ => 1

/-! ## The encoder -/

/-- `BUSSEL` of a handle (R99). -/
def busselByte : BusHandle → Byte
  | .channel n => BitVec.ofNat 8 n.val
  | .direct => 8

/-- `ADDR` of an address (R101). -/
def addrByte (a : Addr) : Byte := BitVec.ofNat 8 a.toNat

/-- `PID = (c << 4) | (P << 3) | K` (R100). -/
def pidByte (p : Pin) : Byte := BitVec.ofNat 8 (16 * p.chip.val + 8 * p.port.val + p.bit.val)

/-- `VAL` of a mode: 1 Gpio, 0 Led (R103). -/
def modeByte : PinMode → Byte
  | .led => 0
  | .gpio => 1

/-- `VAL` of a direction: 1 Input, 0 Output (R103). -/
def dirByte : PinDir → Byte
  | .output => 0
  | .input => 1

/-- `VAL` of a level: 1 High, 0 Low (R103). -/
def levelByte : Level → Byte
  | .low => 0
  | .high => 1

/-- A 16-bit operand as two bytes, low byte first (R65). -/
def word16Bytes (v : BitVec 16) : List Byte := [BitVec.ofNat 8 (v.toNat % 256), BitVec.ofNat 8 (v.toNat / 256)]

/-- The six snapshot bytes (R101). -/
def snapshotBytes (s : Snapshot) : List Byte := [s.s0, s.s1, s.s2, s.s3, s.s4, s.s5]

/-- One operation descriptor (R101). -/
def descriptorBytes : BusOp → List Byte
  | .read len => [0, len]
  | .write d => 1 :: BitVec.ofNat 8 d.length :: d

/-- `ARG` of `HEX_SET_ENABLED` (R125). -/
def slotArgByte (slot : Fin 6) (enable : Bool) : Byte := BitVec.ofNat 8 (slot.val + if enable then 8 else 0)

/-- The opcode byte of a command (R103). -/
def opcode : Instr → Byte
  | .busRead _ _ _ => 0x01
  | .busWrite _ _ _ => 0x02
  | .busWriteRead _ _ _ _ => 0x03
  | .busTransaction _ _ _ => 0x04
  | .regRead _ _ _ => 0x10
  | .regWrite _ _ _ _ => 0x11
  | .chipInit _ => 0x12
  | .pinSetMode _ _ => 0x20
  | .pinSetDir _ _ => 0x21
  | .pinSetState _ _ => 0x22
  | .pinSetDuty _ _ => 0x23
  | .pinSetDutyFrac _ _ _ => 0x24
  | .pinSetDutyPct _ _ => 0x25
  | .pinMaxDuty => 0x26
  | .capIntoOutput _ => 0x30
  | .capIntoInput _ => 0x31
  | .capIntoLed _ => 0x32
  | .capOutSet _ _ => 0x33
  | .capInRead _ => 0x34
  | .capLedDuty _ _ => 0x35
  | .capLedDutyFrac _ _ _ => 0x36
  | .capLedDutyPct _ _ => 0x37
  | .pidEncode _ => 0x38
  | .snapRead => 0x40
  | .snapPinState _ _ => 0x41
  | .btnUpdate _ => 0x50
  | .hexUpdate _ => 0x60
  | .hexSetEnabled _ _ => 0x61

/-- The operand bytes of a command, in the order of its format (R101). -/
def operandBytes : Instr → List Byte
  | .busRead h a n => [busselByte h, addrByte a, n]
  | .busWrite h a w => busselByte h :: addrByte a :: BitVec.ofNat 8 w.length :: w
  | .busWriteRead h a w n => busselByte h :: addrByte a :: BitVec.ofNat 8 w.length :: n :: w
  | .busTransaction h a ops =>
    busselByte h :: addrByte a :: BitVec.ofNat 8 ops.length :: ops.flatMap descriptorBytes
  | .regRead h a g => [busselByte h, addrByte a, g]
  | .regWrite h a g v => [busselByte h, addrByte a, g, v]
  | .chipInit c => [BitVec.ofNat 8 c.val]
  | .pinSetMode p m => [pidByte p, modeByte m]
  | .pinSetDir p d => [pidByte p, dirByte d]
  | .pinSetState p l => [pidByte p, levelByte l]
  | .pinSetDuty p d => [pidByte p, d]
  | .pinSetDutyFrac p n d => pidByte p :: (word16Bytes n ++ word16Bytes d)
  | .pinSetDutyPct p v => [pidByte p, v]
  | .pinMaxDuty => []
  | .capIntoOutput p => [pidByte p]
  | .capIntoInput p => [pidByte p]
  | .capIntoLed p => [pidByte p]
  | .capOutSet p l => [pidByte p, levelByte l]
  | .capInRead p => [pidByte p]
  | .capLedDuty p d => [pidByte p, d]
  | .capLedDutyFrac p n d => pidByte p :: (word16Bytes n ++ word16Bytes d)
  | .capLedDutyPct p v => [pidByte p, v]
  | .pidEncode p => [pidByte p]
  | .snapRead => []
  | .snapPinState p s => pidByte p :: snapshotBytes s
  | .btnUpdate s => snapshotBytes s
  | .hexUpdate s => snapshotBytes s
  | .hexSetEnabled slot enable => [slotArgByte slot enable]

/-- The packet of a command (R97). -/
def encode (i : Instr) : List Byte := opcode i :: operandBytes i

/-! ## Reading a row of the opcode table -/

/-- `n` bytes of a number, least significant first: byte `k` is bits `8k+7` to `8k`. -/
def bytesOfNat : Nat → Nat → List Byte
  | 0, _ => []
  | n + 1, w => BitVec.ofNat 8 (w % 256) :: bytesOfNat n (w / 256)

/-- The packet whose first `nbits` bits are `w` and whose every further bit is 0, to the length R102 determines. -/
def tablePacket (nbits w : Nat) : List Byte :=
  let bs := bytesOfNat ((nbits + 7) / 8) w
  bs ++ List.replicate (packetLength bs - bs.length) 0

/-- The command the decoder reads from the opcode-table word `w` of `nbits` bits. -/
def decodeTableWord (nbits w : Nat) : Option Instr :=
  match decode (tablePacket nbits w) with
  | .ok i => some i
  | .error _ => none

end Sys2Proof
end

