-- ==== Sys2Proof/Config.lean ====
section
/-! DEFINITION. What an implementation fixes (the parameters of 00_scope.md R9, as plain data that State carries)
and the values the spec leaves free (opaque constants without a body: no proof can see what they are). -/

namespace Sys2Proof

/-- The three kinds of the one runtime error, the bus transport error (R260). -/
inductive TransportError where
  | nak
  | arbitrationLoss
  | electricalFault
  deriving DecidableEq, Repr, Inhabited

/-- What the environment does with one wire transaction (R60, R62, R63): it answers with the bytes of all its
reads in order, it answers with an error, or it never answers. -/
inductive Reply where
  | ok (bytes : List Byte)
  | err (k : TransportError)
  | never
  deriving DecidableEq, Repr, Inhabited

/-- `TS_SAMPLING`: one clock sample for a whole update, or one for each emitted entry (R9, R217; OPEN, D12). -/
inductive TsSampling where
  | perUpdate
  | perEntry
  deriving DecidableEq, Repr, Inhabited

/-- `LED_DIR_WRITE`: whether conversion to the Led capability also writes the direction register (R9, R186). -/
inductive LedDirWrite where
  | none
  | output
  deriving DecidableEq, Repr, Inhabited

/-- `HEX_RESET_STATE`: the state of each slot after reset (R9, R27). -/
inductive HexResetState where
  | untracked
  | disabled
  deriving DecidableEq, Repr, Inhabited

/-- The parameters R9 leaves open, which a model takes as arguments: State carries them, so that a statement over
every state is a statement over every implementation (log 1). `ARB_POLICY` is the agenda's choice (log 9);
`TS_WIDTH` and `MAX_LEN` are at their defaults (log 2); no rule depends on `POLL_PERIOD`. -/
structure Params where
  nReq : Nat
  expBus : BusHandle
  buttonPin : Vector Pin 6
  hexDetectPin : Vector Pin 6
  tsSampling : TsSampling
  ledDirWrite : LedDirWrite
  hexResetState : HexResetState
  deriving DecidableEq, Repr

/-- The domain of the parameters (R9, R310): at least one requester, twelve distinct pin identities. -/
def Params.wf (P : Params) : Bool :=
  1 ≤ P.nReq && decide (P.buttonPin.toList ++ P.hexDetectPin.toList).Nodup

/-- The parameters the spec's vectors use (95_test_vectors.md, conventions and the synthetic table X1 of its
section 3). DESIGN CHOICE (log 1): unsafe where a claim is about the state after reset alone. -/
def Params.vectors : Params where
  nReq := 2
  expBus := .channel 7
  buttonPin := #v[⟨0, 0, 0⟩, ⟨1, 0, 1⟩, ⟨2, 0, 2⟩, ⟨0, 1, 3⟩, ⟨1, 1, 4⟩, ⟨2, 1, 5⟩]
  hexDetectPin := #v[⟨0, 1, 6⟩, ⟨1, 1, 5⟩, ⟨2, 1, 4⟩, ⟨0, 0, 3⟩, ⟨1, 0, 2⟩, ⟨2, 0, 1⟩]
  tsSampling := .perUpdate
  ledDirWrite := .none
  hexResetState := .untracked

namespace Config

/-- The `n`-th free reply of an environment under no law (R62): bytes, an error, or silence. -/
opaque reply : Nat → Reply

/-- Byte `i` of the `n`-th answer where no byte is foreseen: any value (R62). -/
opaque wireByte : Nat → Nat → Byte

/-- The `n`-th free reading of the host's clock (R29, D12); used only as far as it does not run backwards. -/
opaque reading : Nat → Timestamp

/-- The multiplexer's selection after its `n`-th transaction with an unspecified effect (U7). -/
opaque muxselDraw : Nat → Byte

/-- `MUXSEL` at power-on: unspecified, a draw (R48, U10). -/
opaque muxselAtReset : Byte

/-- What the expander register of key `k` holds since the `n`-th event that left it unspecified: any value. Number 0
is power-on (R48, R291, U10); the others are transactions with an unspecified effect (U6, U8, U9). -/
opaque registerDraw : Nat → Nat → Byte

/-- Where the register pointer of chip `c` stands after the `n`-th transaction, 0 being power-on: the source does not
say (R47, N8), so any value. -/
opaque pointerDraw : Nat → Nat → Byte

/-- The six pin-level bytes at power-on: they follow the pins (R36, R48). -/
opaque pinsAtReset : Nat → Byte

/-- `TMP[r]` at reset: unspecified, a draw (R25, R48). -/
opaque tmpAtReset : Nat → Byte

end Config

end Sys2Proof
end

