-- ==== Sys2Proof/Machine/State.lean ====
section
/-! DEFINITION. The state of TGX as plain data: the block state of 10_state.md sections 1 to 5, the environment on
the far side of the bus (sections 8 and 9), the inputs of the host, and the model's own scheduling and observation
fields; and the state right after reset (R48, R290). -/

namespace Sys2Proof.Machine

/-- `LOCK`, the mutual exclusion of the one physical bus (R20). -/
inductive LockState where
  | free
  | held (r : Nat)
  deriving DecidableEq, Repr, Inhabited

/-- `SEQ[r]` with `TMP[r]`: where a requester stands in its command (R24, R25). -/
structure Seq where
  /-- The command passed admission and is in progress (R73, R183). -/
  started : Bool
  /-- The index of the next micro-operation (R24). -/
  idx : Nat
  /-- Within the bus operation that now holds the lock, the select write is done (R132). It is cleared with the
  hold: no channel is remembered from one bus operation to the next (R30). -/
  selected : Bool
  /-- The wire transaction in flight will never complete (R63). -/
  hung : Bool
  /-- `TMP[r]` (R25). -/
  tmp : Byte
  /-- The bytes received so far that the response will be made of (R25: the chips already read, the ID byte). -/
  held : List Byte
  deriving DecidableEq, Repr, Inhabited

/-- The sequencer with no command in progress (R24); `TMP` keeps a value that nothing reads (R25; log 19). -/
def Seq.cleared (tmp : Byte) : Seq :=
  { started := false, idx := 0, selected := false, hung := false, tmp := tmp, held := [] }

/-- A requester port: `CMD[r]`, `SEQ[r]` and `TMP[r]`, `RES[r]` (R22 to R25). `CMD[r]` is held decoded (log 16). -/
structure Requester where
  cmd : Option Instr
  seq : Seq
  res : List Byte
  deriving DecidableEq, Repr, Inhabited

/-- A requester with no command, nothing in its result buffer, and the given `TMP` (R48). -/
def Requester.idle (tmp : Byte) : Requester :=
  { cmd := none, seq := Seq.cleared tmp, res := [] }

/-- The level of a button (R26). -/
inductive ButtonLevel where
  | released
  | pressed
  deriving DecidableEq, Repr, Inhabited

/-- `Observed(level, ts)` of R26; an unobserved button is `none` in `BTN`. -/
structure Observation where
  level : ButtonLevel
  ts : Timestamp
  deriving DecidableEq, Repr, Inhabited

/-- The five values of `HEX[s]` (R27; C2 of 90_conflicts.md for the fifth, `untracked`). -/
inductive SlotState where
  | untracked
  | empty
  | occupied
  | disabled (notified : Bool)
  deriving DecidableEq, Repr, Inhabited

/-- The values of `CAP[p]` (R28). -/
inductive CapTag where
  | free
  | output
  | input
  | led
  deriving DecidableEq, Repr, Inhabited

/-- Which environment answers the wire: one under no law (R62), or the spec's reference environment `E_ref`
(95_test_vectors.md section 2; log 4). -/
inductive EnvLaw where
  | general
  | reference
  deriving DecidableEq, Repr, Inhabited

/-- What the registers of a chip hold that have no cell of their own: zeros, as in the initial `E_ref`
(95_test_vectors.md section 2), or the free bytes of draw `n`, unspecified since power-on or since a transaction
that left the whole chip unspecified (R48, U8, U10; log 7). -/
inductive Fill where
  | zeros
  | draw (n : Nat)
  deriving DecidableEq, Repr, Inhabited

/-- Everything on the far side of the physical bus (R17). Under the general law `script` holds the replies that are
foreseen, oldest first, and every further one is free (log 3); `muxsel`, `fill`, `regs` and `pointer` then hold what
the chips were told, which no rule of TGX reads back (log 5). Under `E_ref` the answers are computed from `muxsel`,
`fill`, `regs`, `pins` and `absent`. -/
structure Environment where
  law : EnvLaw
  script : List Reply
  /-- How many free replies have been drawn. -/
  draws : Nat
  /-- `MUXSEL` (R34). -/
  muxsel : Byte
  /-- What the registers of each chip without a cell in `regs` hold (R48; log 7). -/
  fill : Vector Fill 3
  /-- The expander registers of R35, each a byte: a cell for each register that differs from its chip's `fill`, keyed
  `256 * chip + offset`, keys strictly rising. INPUT has no cell, it is `pins` (R36). -/
  regs : List Host.Cell
  /-- The register pointer of each chip, hidden state that makes one 2-byte read return two consecutive registers
  (R47; log 22). -/
  pointer : Vector Byte 3
  /-- The pin levels, byte `2 * chip + port`: what INPUT_P0 and INPUT_P1 show (R36). -/
  pins : Vector Byte 6
  /-- Chips that are absent (95_test_vectors.md section 2). -/
  absent : List (Fin 3)
  deriving DecidableEq, Repr

/-- The host's clock, the input `NOW` (R29): its last reading, the readings that are foreseen, and how many free
readings have been drawn (log 8). -/
structure Clock where
  last : Timestamp
  script : List Timestamp
  draws : Nat
  deriving DecidableEq, Repr, Inhabited

/-- What another bus participant may do at any time, outside the lock (R18, R78): change the multiplexer's
selection, a chip register, a chip's register pointer, or (the outside world) the levels of a port's pins. -/
inductive Drift where
  | muxsel (b : Byte)
  | reg (c : Fin 3) (g : Byte) (v : Byte)
  | pointer (c : Fin 3) (v : Byte)
  | pins (c : Fin 3) (port : Fin 2) (v : Byte)
  deriving DecidableEq, Repr, Inhabited

/-- One entry of the agenda: which agent moves next, and how (R18; log 9). -/
inductive Move where
  /-- The host presents a packet on port `r` (R97, R98), and `r` then takes up to `budget` micro-steps. -/
  | present (r : Nat) (packet : List Byte) (budget : Nat)
  /-- Requester `r` takes up to `budget` micro-steps of its command (R18, R278). -/
  | run (r : Nat) (budget : Nat)
  /-- The arbiter grants the lock to the waiting requester `r` (R131). -/
  | grant (r : Nat)
  /-- The host's clock will read these values next (R29). -/
  | clock (readings : List Timestamp)
  /-- Another bus participant acts (R78). -/
  | drift (d : Drift)
  deriving DecidableEq, Repr, Inhabited

/-- Whose turn it is and how many micro-steps it may take before another agent moves (log 9). -/
structure Turn where
  requester : Nat
  budget : Nat
  deriving DecidableEq, Repr, Inhabited

/-- Which of the two transactions of a logical bus operation a wire transaction is (R132). -/
inductive WireRole where
  | select
  | payload
  deriving DecidableEq, Repr, Inhabited

/-- One wire transaction as the observer of R19 sees it, with the requester and handle it was issued for. -/
structure WireEvent where
  requester : Nat
  handle : BusHandle
  role : WireRole
  addr : Addr
  ops : List BusOp
  outcome : Reply
  deriving DecidableEq, Repr, Inhabited

/-- The machine. -/
structure State where
  /-- The implementation's parameters (R9), never written (log 1). -/
  cfg : Params
  /-- `LOCK` (R20). -/
  lock : LockState
  /-- `WAIT` (R21): the waiting requesters, strictly rising, so that equal sets are equal data. -/
  wait : List Nat
  /-- `CMD`, `SEQ`, `TMP`, `RES` of each requester (R22 to R25). -/
  reqs : List Requester
  /-- `BTN[0..5]` (R26): `none` is Unobserved. -/
  btn : Vector (Option Observation) 6
  /-- `HEX[0..5]` (R27). -/
  hex : Vector SlotState 6
  /-- `CAP[0..47]` (R28), indexed by the packed pin identity (R100). -/
  cap : Vector CapTag 48
  /-- The environment (R34 to R45, R62). -/
  env : Environment
  /-- The input `NOW` (R29). -/
  clock : Clock
  /-- The turn of the requester that steps (log 9). -/
  turn : Turn
  /-- What the host, the scheduler, the arbiter and the other bus participants do next (log 9). -/
  agenda : List Move
  /-- The wire transactions so far, oldest first (R19; log 15). -/
  wire : List WireEvent
  /-- The responses so far, oldest first, each with its requester (R19; log 15). -/
  responses : List (Nat × List Byte)
  deriving DecidableEq, Repr

/-- Why TGX stops with a fault: there is no such reason, so there is no constructor. The one runtime error, the bus
transport error, ends a command and not the machine (R262, R264); a transaction that never completes is a wait and
"not a fault" (R63); the overflow of the event bus (U13) is outside TGX (R5, R266). That no step faults is exact,
neither safe nor unsafe (log 20). -/
inductive Fault
  deriving DecidableEq, Repr

/-- Why an instruction is refused. An illegal or refused PACKET is not among these: its response `ILLEGAL` is an
effect the spec gives it (R112), so it is a next state (log 11). -/
inductive Refusal where
  /-- The instruction has no meaning in the model; raised by an arm of `exec` only, and by none at present. Safe. -/
  | notModelled (mnemonic : String)
  deriving DecidableEq, Repr

/-- The most micro-steps any command takes when nothing makes it wait: `HEX_SET_ENABLED` with enable = 0 on a muxed
bus, admission, six bus operations of three each, completion (R24, R132, R243). -/
def wholeCommand : Nat := 20

/-- `HEX[s]` at reset: `HEX_RESET_STATE` (R27). -/
def resetSlot : HexResetState → SlotState
  | .untracked => .untracked
  | .disabled => .disabled false

/-- The environment as power-on finds it: under no law, and every byte of it a draw (R48, R291; log 3, 6, 7, 22). -/
def Environment.powerOn : Environment where
  law := .general
  script := []
  draws := 0
  muxsel := Config.muxselAtReset
  fill := Vector.replicate 3 (.draw 0)
  regs := []
  pointer := Vector.ofFn fun c => Config.pointerDraw 0 c.val
  pins := Vector.ofFn fun i => Config.pinsAtReset i.val
  absent := []

/-- The machine of the given parameters right after reset (R48, R290). -/
def State.resetWith (P : Params) : State where
  cfg := P
  lock := .free
  wait := []
  reqs := (List.range P.nReq).map fun r => Requester.idle (Config.tmpAtReset r)
  btn := Vector.replicate 6 none
  hex := Vector.replicate 6 (resetSlot P.hexResetState)
  cap := Vector.replicate 48 .free
  env := Environment.powerOn
  clock := { last := 0, script := [], draws := 0 }
  turn := { requester := 0, budget := wholeCommand }
  agenda := []
  wire := []
  responses := []

/-- The machine right after reset, with the parameters of the spec's vectors (R48; DESIGN CHOICE, log 1). -/
def State.reset : State := State.resetWith Params.vectors

end Sys2Proof.Machine
end

