-- ==== Sys2Proof/Machine/Operands.lean ====
section
/-! DEFINITION. Everything computed from operands alone: the identity encoder, register offsets, bit masks, the duty
divisions, snapshot lookup, and the bytes of responses (30_encoding.md sections 1, 4 and 5; the inventory of
arithmetic of 46_common_laws.md R246). -/

namespace Sys2Proof.Machine

/-! ## Bus addresses -/

/-- The multiplexer's bus address (R8, R34). -/
def muxAddr : Addr := 0x77

/-- The select byte of a channel, `1 << N` (R90; R246 row a). -/
def selectByte (n : Fin 8) : Byte := 1 <<< n.val

/-- A byte with exactly one bit set, that is the select byte of some channel (R34). -/
def isSelectByte (b : Byte) : Bool :=
  b == 0x01 || b == 0x02 || b == 0x04 || b == 0x08 || b == 0x10 || b == 0x20 || b == 0x40 || b == 0x80

/-- The bus address of a chip, `A = 0x58 + c` (R100; R246 row f). -/
def chipAddr (c : Fin 3) : Addr := 0x58 + BitVec.ofNat 7 c.val

/-- The chip at a bus address, if it is one of the three (R35). -/
def chipOfAddr (a : Addr) : Option (Fin 3) :=
  if a = 0x58 then some 0 else if a = 0x59 then some 1 else if a = 0x5A then some 2 else none

/-! ## The register map (R35) -/

/-- INPUT_P0; INPUT_P1 is the next offset (R36). -/
def regInput : Byte := 0x00
/-- OUTPUT_P0; OUTPUT_P1 is the next offset (R37). -/
def regOutput : Byte := 0x02
/-- CONFIG_P0; CONFIG_P1 is the next offset (R38). -/
def regConfig : Byte := 0x04
/-- INT_P0 (R39). -/
def regIntP0 : Byte := 0x06
/-- INT_P1 (R39). -/
def regIntP1 : Byte := 0x07
/-- ID (R40). -/
def regId : Byte := 0x10
/-- CTL (R41). -/
def regCtl : Byte := 0x11
/-- LEDMS_P0; LEDMS_P1 is the next offset (R42). -/
def regLedms : Byte := 0x12
/-- DIM0; DIM`n` is `n` offsets on (R43). -/
def regDim : Byte := 0x20
/-- SW_RSTN (R44). -/
def regSwRstn : Byte := 0x7F

/-- The value written to CTL at initialisation: push-pull, maximum LED current (R41, R94). -/
def ctlInit : Byte := 0x10
/-- The value written to INT_P0 and INT_P1 at initialisation: all interrupts disabled (R39, R94). -/
def intInit : Byte := 0xFF

/-- The offsets of R35 that hold a byte TGX writes: OUTPUT, CONFIG, INT, CTL, LEDMS and DIM. -/
def isStorageReg (g : Byte) : Bool :=
  (2 ≤ g.toNat && g.toNat ≤ 7) || (0x11 ≤ g.toNat && g.toNat ≤ 0x13) || (0x20 ≤ g.toNat && g.toNat ≤ 0x2F)

/-! ## The identity encoder (R95, R180) -/

/-- The offset of a per-port register, `base + P` (R95; R246 row g). -/
def portReg (base : Byte) (p : Pin) : Byte := base + BitVec.ofNat 8 p.port.val

/-- `dim_index(P, K)`, the dimmer register of a pin (R43). -/
def dimIndex (port : Fin 2) (bit : Fin 8) : Nat :=
  if port.val = 1 then (if bit.val ≤ 3 then bit.val else bit.val + 8) else bit.val + 4

/-- The offset of a pin's dimmer register (R95; R246 row h). -/
def dimReg (p : Pin) : Byte := regDim + BitVec.ofNat 8 (dimIndex p.port p.bit)

/-- `mask(p) = 1 << K` (R14, R95; R246 row b). -/
def pinMask (p : Pin) : Byte := 1 <<< p.bit.val

/-- The packed number of a pin identity, which indexes `CAP` (R28, R100; R246 row j). -/
def pinIndex (p : Pin) : Fin 48 := ⟨16 * p.chip.val + 8 * p.port.val + p.bit.val, by omega⟩

/-- The seven bytes `PID_ENCODE` shows: chip address, INPUT, OUTPUT, CONFIG, LEDMS and DIM offsets, mask (R181). -/
def identityBytes (p : Pin) : List Byte :=
  [BitVec.ofNat 8 (chipAddr p.chip).toNat, portReg regInput p, portReg regOutput p, portReg regConfig p,
    portReg regLedms p, dimReg p, pinMask p]

/-! ## Bit operations (R246 rows c to e, R248) -/

/-- The modify step of a read-modify-write: set or clear the masked bit of the byte that was read (R152). -/
def modifyBit (set : Bool) (mask t : Byte) : Byte := if set then t ||| mask else t &&& ~~~mask

/-- `(v >> K) & 1` (R246 row e). -/
def bitOf (v : Byte) (k : Fin 8) : Bool := v.getLsbD k.val

/-- A level in a response: `0x01` high, `0x00` low (R106). -/
def levelBitByte (b : Bool) : Byte := if b then 1 else 0

/-- The bit a `PinMode` writes to LEDMS: set for Gpio (R42, R154). -/
def modeBit : PinMode → Bool
  | .gpio => true
  | .led => false

/-- The bit a `PinDir` writes to CONFIG: set for Input (R38, R155). -/
def dirBit : PinDir → Bool
  | .input => true
  | .output => false

/-- The bit a `Level` writes to OUTPUT: set for High (R37, R156). -/
def levelBit : Level → Bool
  | .high => true
  | .low => false

/-! ## Duty (R246 rows k and l, R247) -/

/-- `floor(num * 255 / den)` on numbers (R247). -/
def dutyQuotient (num den : Nat) : Nat := num * 255 / den

/-- The fractional duty, in a widened intermediate, as a byte (R159). -/
def fracDuty (num den : BitVec 16) : Byte := BitVec.ofNat 8 (dutyQuotient num.toNat den.toNat)

/-- The precondition of the fractional duty: `DEN` is not 0 and `NUM` does not exceed it (R159). -/
def fracAllowed (num den : BitVec 16) : Bool := den.toNat != 0 && num.toNat ≤ den.toNat

/-- The percent duty, `floor(pct * 255 / 100)` (R160). -/
def pctDuty (pct : Byte) : Byte := BitVec.ofNat 8 (dutyQuotient pct.toNat 100)

/-- The maximum duty (R8, R158). -/
def maxDuty : Byte := 0xFF

/-! ## Snapshots (R203, R204; R246 row i) -/

/-- Byte `S[2*c + P]` of a snapshot (R203). -/
def snapshotByte (s : Snapshot) (c : Fin 3) (port : Fin 2) : Byte :=
  match c, port with
  | 0, 0 => s.s0
  | 0, 1 => s.s1
  | 1, 0 => s.s2
  | 1, 1 => s.s3
  | 2, 0 => s.s4
  | 2, 1 => s.s5

/-- `pin_state(S, p)`: `true` means electrically high (R204). -/
def pinState (s : Snapshot) (p : Pin) : Bool := bitOf (snapshotByte s p.chip p.port) p.bit

/-- `level(S, b)`: high is Released, low is Pressed (R215). -/
def buttonLevel (P : Params) (s : Snapshot) (b : Fin 6) : ButtonLevel :=
  if pinState s P.buttonPin[b] then .released else .pressed

/-- `slot_level(S, s)`: high is Empty, low is Occupied (R235). -/
def slotLevel (P : Params) (s : Snapshot) (slot : Fin 6) : SlotState :=
  if pinState s P.hexDetectPin[slot] then .empty else .occupied

/-! ## Responses (R105) -/

/-- Status `OK`. -/
def statusOk : Byte := 0x00

/-- Status `ILLEGAL`, of illegal and of refused packets (R112). -/
def statusIllegal : Byte := 0xFE

/-- The status of a transport error (R105, R260). -/
def errorCode : TransportError → Byte
  | .nak => 0x01
  | .arbitrationLoss => 0x02
  | .electricalFault => 0x03

/-- A timestamp as eight bytes, least significant first (R65, R107, R108). -/
def timestampBytes (t : Timestamp) : List Byte :=
  [t.extractLsb' 0 8, t.extractLsb' 8 8, t.extractLsb' 16 8, t.extractLsb' 24 8, t.extractLsb' 32 8,
    t.extractLsb' 40 8, t.extractLsb' 48 8, t.extractLsb' 56 8]

/-- How many bytes the reads of an operation list receive (R60). -/
def readLength : List BusOp → Nat
  | [] => 0
  | .read len :: ops => len.toNat + readLength ops
  | .write _ :: ops => readLength ops

/-- The six indexes 0 to 5 in ascending order, of buttons (R216) and of slots (R236). -/
def sixIndexes : List (Fin 6) := [0, 1, 2, 3, 4, 5]

end Sys2Proof.Machine
end

