-- ==== Sys2Proof/Machine/Chips.lean ====
section
/-! DEFINITION. The far side of the bus: the expander registers as a canonical list of cells (10_state.md R35 to
R45), the environment under no law (20_memory.md R62), the reference environment `E_ref` (95_test_vectors.md
section 2), and the doings of other bus participants (R78). -/

namespace Sys2Proof.Machine

/-! ## The register cells -/

/-- What the register of key `k` holds when no cell says otherwise: its chip's fill (log 7). -/
def fillByte (fill : Vector Fill 3) (k : Nat) : Byte :=
  match fill.toList.getD (k / 256) .zeros with
  | .zeros => 0x00
  | .draw n => Config.registerDraw n k

/-- An offset of INPUT_P0 or INPUT_P1, which show the pins and store nothing (R36). -/
def isInputReg (g : Byte) : Bool := g == 0x00 || g == 0x01

/-- The canonical form: keys strictly rising, inside the three chips' 256 offsets each, none of INPUT, and no cell
equal to what its key reads as without one. -/
abbrev Memory.wf (fill : Vector Fill 3) (m : List Host.Cell) : Prop :=
  m.Pairwise (fun x y => x.1 < y.1) ∧ ∀ x ∈ m, x.1 < 768 ∧ 2 ≤ x.1 % 256 ∧ x.2 ≠ fillByte fill x.1

/-- The byte of a cell, if there is one. -/
def cellRead : List Host.Cell → Nat → Option Byte
  | [], _ => none
  | (k, v) :: rest, a => if a = k then some v else cellRead rest a

/-- Set one cell, keeping the order of keys. -/
def cellWrite : List Host.Cell → Nat → Byte → List Host.Cell
  | [], a, v => [(a, v)]
  | (k, w) :: rest, a, v =>
    if a < k then (a, v) :: (k, w) :: rest
    else if a = k then (a, v) :: rest
    else (k, w) :: cellWrite rest a v

/-- Remove one cell. -/
def cellErase (m : List Host.Cell) (a : Nat) : List Host.Cell := m.filter fun x => x.1 != a

/-- The key of a register: chip index and offset (R35, R46). -/
def regKey (c : Fin 3) (g : Byte) : Nat := 256 * c.val + g.toNat

/-- The index of a port's pin-level byte (R203). -/
def pinsIndex (c : Fin 3) (port : Fin 2) : Fin 6 := ⟨2 * c.val + port.val, by omega⟩

/-- The byte a chip register holds (R35): INPUT follows the pins (R36), any other register holds its cell's byte, or
its chip's fill. -/
def Environment.reg (e : Environment) (c : Fin 3) (g : Byte) : Byte :=
  if g = 0x00 then e.pins[pinsIndex c 0]
  else if g = 0x01 then e.pins[pinsIndex c 1]
  else (cellRead e.regs (regKey c g)).getD (fillByte e.fill (regKey c g))

/-- Store a byte in a chip register, keeping the canonical form; INPUT stores nothing (R36). -/
def Environment.setReg (e : Environment) (c : Fin 3) (g v : Byte) : Environment :=
  if isInputReg g then e
  else if v = fillByte e.fill (regKey c g) then { e with regs := cellErase e.regs (regKey c g) }
  else { e with regs := cellWrite e.regs (regKey c g) v }

/-- The number of the draws that belong to the transaction now being answered; 0 is power-on's. -/
def Environment.drawNumber (e : Environment) : Nat := e.draws + 1

/-- A chip register becomes unspecified: any value (U6). -/
def Environment.forgetReg (e : Environment) (c : Fin 3) (g : Byte) : Environment :=
  e.setReg c g (Config.registerDraw e.drawNumber (regKey c g))

/-- Every register of a chip becomes unspecified: any values (U8). INPUT goes on following the pins (R36). -/
def Environment.forgetChip (e : Environment) (c : Fin 3) : Environment :=
  { e with
    fill := e.fill.set c.val (.draw e.drawNumber) c.isLt
    regs := e.regs.filter fun x => x.1 / 256 != c.val }

/-- A transaction moves a chip's register pointer to where the source does not say: any value (R47, N8; log 22). -/
def Environment.movePointer (e : Environment) (c : Fin 3) : Environment :=
  { e with pointer := e.pointer.set c.val (Config.pointerDraw e.drawNumber c.val) c.isLt }

/-! ## The reference environment `E_ref` -/

/-- A chip answers: it is there, and the multiplexer connects its channel or none is needed
(95_test_vectors.md section 2). -/
def Environment.reaches (e : Environment) (expBus : BusHandle) (c : Fin 3) : Bool :=
  !e.absent.contains c &&
    match expBus with
    | .direct => true
    | .channel n => bitOf e.muxsel n

/-- What `E_ref` shows at a register offset: `0x23` at ID, else the register, which is the pin levels at INPUT and the
stored byte elsewhere (95_test_vectors.md section 2). -/
def Environment.referenceRead (e : Environment) (c : Fin 3) (g : Byte) : Byte :=
  if g = regId then 0x23 else e.reg c g

/-- A register write as `E_ref` takes it: INPUT and ID keep what they show (95_test_vectors.md section 2). -/
def Environment.referenceWrite (e : Environment) (c : Fin 3) (g v : Byte) : Environment :=
  if isInputReg g ∨ g = regId then e else e.setReg c g v

/-- The answers of `E_ref`, transaction by transaction (95_test_vectors.md section 2). -/
def Environment.referenceAnswer (e : Environment) (expBus : BusHandle) (a : Addr) (ops : List BusOp) :
    Reply × Environment :=
  if a = muxAddr then
    match ops with
    | [.write [b]] => (.ok [], { e with muxsel := b })
    | _ => (.err .nak, e)
  else
    match chipOfAddr a with
    | none => (.err .nak, e)
    | some c =>
      if e.reaches expBus c then
        match ops with
        | [.write [g, v]] => (.ok [], e.referenceWrite c g v)
        | [.write [g], .read n] => if n = 1 then (.ok [e.referenceRead c g], e) else (.err .nak, e)
        | [.write [g, x], .read n] =>
          if g = 0x00 ∧ x = 0x01 ∧ n = 2 then (.ok [e.pins[pinsIndex c 0], e.pins[pinsIndex c 1]], e)
          else (.err .nak, e)
        | _ => (.err .nak, e)
      else (.err .nak, e)

/-- The initial `E_ref`: nothing selected, every register `0x00`, every pin high, every chip there
(95_test_vectors.md section 2). It has no register pointer; the field stays 0 (DESIGN CHOICE, log 22). -/
def Environment.reference : Environment where
  law := .reference
  script := []
  draws := 0
  muxsel := 0x00
  fill := Vector.replicate 3 .zeros
  regs := []
  pointer := Vector.replicate 3 0x00
  pins := Vector.replicate 6 0xFF
  absent := []

/-! ## The environment under no law -/

/-- Bytes of the right length (R60): the foreseen ones, and where none is foreseen any value. -/
def deliver (draw n : Nat) (bytes : List Byte) : List Byte :=
  (List.range n).map fun k => bytes.getD k (Config.wireByte draw k)

/-- The next reply of an environment under no law: the next foreseen one, else a free one (R62; log 3). -/
def Environment.nextReply (e : Environment) (ops : List BusOp) : Reply :=
  match e.script.headD (Config.reply e.draws) with
  | .ok bytes => .ok (deliver e.draws (readLength ops) bytes)
  | .err k => .err k
  | .never => .never

/-- Whether what TGX sends to a chip gets there, as far as the recorded selection tells: after a select byte of
another kind than one-hot it is unknown (U7). -/
def Environment.connected (e : Environment) : BusHandle → Option Bool
  | .direct => some true
  | .channel n => if isSelectByte e.muxsel then some (e.muxsel == selectByte n) else none

/-- An operation list sends something. -/
def sendsBytes (ops : List BusOp) : Bool :=
  ops.any fun op => match op with | .write _ => true | .read _ => false

/-- Record in the registers of a chip what a transaction told it (log 5): an acknowledged register write to a register
that stores is stored; one that failed, or of which it is unknown whether it arrived, leaves that register
unspecified (U6, U7); a write to any other offset leaves the whole chip unspecified (U8, U9), and so does every shape
that sends bytes and that TGX itself never sends.

What only reads leaves the registers as they were: the write of one offset byte followed by a read of any length, the
snapshot read W4, and a list of nothing but reads. The source does not say whether a read has a side effect in the
chip (N12, U29): that it has none on the record is the model's choice (DESIGN CHOICE, log 5). -/
def Environment.recordRegs (e : Environment) (expBus : BusHandle) (c : Fin 3) (ops : List BusOp) (answer : Reply) :
    Environment :=
  match ops with
  | [.write [g, v]] =>
    if isStorageReg g then
      match answer, e.connected expBus with
      | .ok _, some true => e.setReg c g v
      | _, _ => e.forgetReg c g
    else e.forgetChip c
  | [.write [_], .read _] => e
  | [.write [g, x], .read n] => if g = 0x00 ∧ x = 0x01 ∧ n = 2 then e else e.forgetChip c
  | _ => if sendsBytes ops then e.forgetChip c else e

/-- Record what a transaction told a chip: nothing where the recorded selection does not connect it, else its
registers, and its register pointer, which every transaction moves (R47; log 5, log 22). -/
def Environment.recordChip (e : Environment) (expBus : BusHandle) (c : Fin 3) (ops : List BusOp) (answer : Reply) :
    Environment :=
  if e.connected expBus = some false then e else (e.recordRegs expBus c ops answer).movePointer c

/-- Record what a transaction told the multiplexer: an acknowledged one-byte write is the selection (R34), any other
write leaves it unspecified (U6, U7). The source does not say whether the multiplexer can be read back (N14): that a
list of nothing but reads addressed to 0x77 leaves `MUXSEL` as it was is the model's choice (DESIGN CHOICE, log 5). -/
def Environment.recordMux (e : Environment) (ops : List BusOp) (answer : Reply) : Environment :=
  match ops, answer with
  | [.write [b]], .ok _ => { e with muxsel := b }
  | _, _ => if sendsBytes ops then { e with muxsel := Config.muxselDraw e.draws } else e

/-- Record what a transaction told the far side (R34, R35; log 5). -/
def Environment.record (e : Environment) (expBus : BusHandle) (a : Addr) (ops : List BusOp) (answer : Reply) :
    Environment :=
  if a = muxAddr then e.recordMux ops answer
  else
    match chipOfAddr a with
    | none => e
    | some c => e.recordChip expBus c ops answer

/-- The answer of an environment under no law, one reply used up (R62). -/
def Environment.generalAnswer (e : Environment) (expBus : BusHandle) (a : Addr) (ops : List BusOp) :
    Reply × Environment :=
  let answer := e.nextReply ops
  let told := e.record expBus a ops answer
  (answer, { told with script := e.script.tail, draws := e.draws + 1 })

/-- The environment answers `phys(a, ops)` (R60, R62). -/
def Environment.answer (e : Environment) (expBus : BusHandle) (a : Addr) (ops : List BusOp) : Reply × Environment :=
  match e.law with
  | .general => e.generalAnswer expBus a ops
  | .reference => e.referenceAnswer expBus a ops

/-- Another bus participant acts, outside the lock (R18, R78, R301). -/
def Environment.drift (e : Environment) : Drift → Environment
  | .muxsel b => { e with muxsel := b }
  | .reg c g v => e.setReg c g v
  | .pointer c v => { e with pointer := e.pointer.set c.val v c.isLt }
  | .pins c port v => { e with pins := e.pins.set (pinsIndex c port).val v (pinsIndex c port).isLt }

end Sys2Proof.Machine
end

