-- ==== Sys2Proof/Machine/Flags.lean ====
section
/-! DEFINITION. The flag-like state of TGX (10_state.md R33: there are no condition codes) and the stored forms the
spec gives `BTN`, `HEX` and `CAP` (R26, R27, R28; D14 of 92_eei_decisions.md). -/

namespace Sys2Proof.Machine

/-- The `observed` flag of a button (R26, R33). -/
def observedFlag (o : Option Observation) : Bool := o.isSome

/-- The `notified` flag of a slot: stored for a disabled slot, implicitly true once a level was emitted (R33). -/
def notifiedFlag : SlotState → Bool
  | .untracked => false
  | .empty => true
  | .occupied => true
  | .disabled notified => notified

/-- Bit 0 of a stored or emitted button level: 1 is Pressed (R26, R107). -/
def levelCode : ButtonLevel → BitVec 1
  | .pressed => 1
  | .released => 0

/-- The stored form of `BTN[b]`: `observed`, then `level` and `ts` (R26). When `observed = 0` R26 says that the other
fields hold no value and gives them no bits; that they are then shown as `none` is the model's choice (DESIGN CHOICE,
log 24). -/
def buttonCode : Option Observation → BitVec 1 × Option (BitVec 1 × Timestamp)
  | none => (0, none)
  | some o => (1, some (levelCode o.level, o.ts))

/-- The 3-bit stored form of `HEX[s]` (R27). -/
def slotCode : SlotState → BitVec 3
  | .untracked => 0
  | .empty => 1
  | .occupied => 2
  | .disabled false => 4
  | .disabled true => 5

/-- The 2-bit stored form of `CAP[p]` (R28). -/
def capCode : CapTag → BitVec 2
  | .free => 0
  | .output => 1
  | .input => 2
  | .led => 3

end Sys2Proof.Machine
end

