-- ==== Sys2Proof/Machine/Ops.lean ====
section
/-! DEFINITION. The named operations every command is made of: requester ports, the lock, one wire transaction,
taking a transport error, admission, the sequencer, and the turn of a requester (40_bus_ops.md, 60_exceptions.md
R262, 10_state.md R20 to R25, 20_memory.md R72 and R73). -/

namespace Sys2Proof.Machine

/-! ## Requester ports -/

/-- Requester `r`'s port; there is none beyond `N_REQ`. -/
def State.req (s : State) (r : Nat) : Requester := s.reqs.getD r (Requester.idle 0)

/-- Replace requester `r`'s port. -/
def State.setReq (s : State) (r : Nat) (q : Requester) : State := { s with reqs := s.reqs.set r q }

/-- Requester `r`'s sequencer. -/
def State.seq (s : State) (r : Nat) : Seq := (s.req r).seq

/-- Replace requester `r`'s sequencer. -/
def State.setSeq (s : State) (r : Nat) (q : Seq) : State := s.setReq r { s.req r with seq := q }

/-- Port `r` exists and has no command in flight, so the host may present one (R22, U30). -/
def State.ready (s : State) (r : Nat) : Bool := decide (r < s.reqs.length) && (s.req r).cmd.isNone

/-- Requester `r` takes a command: `CMD[r]` is loaded and its sequencer starts at the beginning (R22, R24). -/
def State.load (s : State) (r : Nat) (i : Instr) : State :=
  s.setReq r { s.req r with cmd := some i, seq := Seq.cleared (s.seq r).tmp }

/-- The command of requester `r` ends with a response: `RES[r]` is written, `CMD[r]` and `SEQ[r]` are cleared
(R23, R24), and the observer sees the response (R19). -/
def State.respond (s : State) (r : Nat) (bytes : List Byte) : State :=
  { s.setReq r { cmd := none, seq := Seq.cleared (s.seq r).tmp, res := bytes } with
    responses := s.responses ++ [(r, bytes)] }

/-- An illegal packet: the response is `ILLEGAL` and nothing but `RES[r]` changes (R112; log 11). -/
def State.answerIllegal (s : State) (r : Nat) : State :=
  { s.setReq r { s.req r with res := [statusIllegal] } with responses := s.responses ++ [(r, [statusIllegal])] }

/-! ## The arbiter (R131) -/

/-- Add a requester to a strictly rising list. -/
def waitInsert : List Nat → Nat → List Nat
  | [], r => [r]
  | k :: rest, r => if r < k then r :: k :: rest else if r = k then k :: rest else k :: waitInsert rest r

/-- `acquire(r)`: take a free lock, or join `WAIT` (R131). -/
def State.acquire (s : State) (r : Nat) : State :=
  match s.lock with
  | .free => { s with lock := .held r }
  | .held _ => { s with wait := waitInsert s.wait r }

/-- `release(r)`: a lock held by `r` becomes free (R131). -/
def State.release (s : State) (r : Nat) : State :=
  if s.lock = .held r then { s with lock := .free } else s

/-- Grant a free lock to a waiting requester; nothing where that is not enabled (R131). -/
def State.grant (s : State) (r : Nat) : State :=
  if s.lock = .free ∧ r ∈ s.wait then { s with lock := .held r, wait := s.wait.filter (· != r) } else s

/-! ## One wire transaction -/

/-- `phys(a, ops)` issued by requester `r` for a bus operation on handle `h`: the environment answers, and the
observer sees the transaction (R19, R60). -/
def State.phys (s : State) (r : Nat) (h : BusHandle) (role : WireRole) (a : Addr) (ops : List BusOp) :
    Reply × State :=
  let answered := s.env.answer s.cfg.expBus a ops
  (answered.1,
    { s with
      env := answered.2
      wire := s.wire ++
        [{ requester := r, handle := h, role := role, addr := a, ops := ops, outcome := answered.1 }] })

/-- Taking the one runtime error, `raise BusError(k)`: the lock is free if `r` held it, the remaining
micro-operations are dropped, `SEQ[r]` and `CMD[r]` are cleared, `RES[r]` is the one status byte, and nothing else
changes (R262). There is no handler to enter and so no return from one (R264). -/
def State.raise (s : State) (r : Nat) (k : TransportError) : State := (s.release r).respond r [errorCode k]

/-- The wire transaction of requester `r` never completes: the lock stays as it is, and so does everything else,
for ever (R63; log 14). -/
def State.hang (s : State) (r : Nat) : State := s.setSeq r { s.seq r with hung := true }

/-! ## The bus operations of a command -/

/-- One logical bus operation in the micro-operation list of a command, with what becomes of the bytes it receives
(R24, R61, R250). -/
inductive BusStep where
  /-- The host's own operation list, the bytes kept for the response (`BUS_*`). -/
  | forward (h : BusHandle) (a : Addr) (ops : List BusOp)
  /-- `read_register`, the byte kept for the response (W2). -/
  | readKept (h : BusHandle) (a : Addr) (g : Byte)
  /-- `write_register` (W3). -/
  | writeReg (h : BusHandle) (a : Addr) (g v : Byte)
  /-- The read of a read-modify-write, into `TMP` (W2; R152). -/
  | readTmp (h : BusHandle) (a : Addr) (g : Byte)
  /-- The write of a read-modify-write, of `TMP` with the masked bit set or cleared (W3; R152). -/
  | writeTmp (h : BusHandle) (a : Addr) (g mask : Byte) (set : Bool)
  /-- The read of both input registers of a chip, the bytes kept for the response (W4). -/
  | readPorts (h : BusHandle) (a : Addr)
  deriving DecidableEq, Repr

/-- The handle a bus operation goes through. -/
def BusStep.handle : BusStep → BusHandle
  | .forward h _ _ => h
  | .readKept h _ _ => h
  | .writeReg h _ _ _ => h
  | .readTmp h _ _ => h
  | .writeTmp h _ _ _ _ => h
  | .readPorts h _ => h

/-- The device address of a bus operation. -/
def BusStep.addr : BusStep → Addr
  | .forward _ a _ => a
  | .readKept _ a _ => a
  | .writeReg _ a _ _ => a
  | .readTmp _ a _ => a
  | .writeTmp _ a _ _ _ => a
  | .readPorts _ a => a

/-- The payload of a bus operation, given `TMP` (R61: W2, W3, W4; R132: a host's list unchanged). -/
def BusStep.payload (tmp : Byte) : BusStep → List BusOp
  | .forward _ _ ops => ops
  | .readKept _ _ g => [.write [g], .read 1]
  | .writeReg _ _ g v => [.write [g, v]]
  | .readTmp _ _ g => [.write [g], .read 1]
  | .writeTmp _ _ g mask set => [.write [g, modifyBit set mask tmp]]
  | .readPorts _ _ => [.write [0x00, 0x01], .read 2]

/-- What a completed bus operation leaves in the sequencer: the received bytes where they belong, and the index one
on (R24, R25). -/
def BusStep.absorb (rx : List Byte) (q : Seq) : BusStep → Seq
  | .forward _ _ _ => { q with idx := q.idx + 1, selected := false, held := q.held ++ rx }
  | .readKept _ _ _ => { q with idx := q.idx + 1, selected := false, held := q.held ++ rx }
  | .writeReg _ _ _ _ => { q with idx := q.idx + 1, selected := false }
  | .readTmp _ _ _ => { q with idx := q.idx + 1, selected := false, tmp := rx.headD 0 }
  | .writeTmp _ _ _ _ _ => { q with idx := q.idx + 1, selected := false }
  | .readPorts _ _ => { q with idx := q.idx + 1, selected := false, held := q.held ++ rx }

/-- `rmw(r, p, B, set)`: read the pin's register, then write it back with the pin's bit set or cleared, as two bus
operations (R152). -/
def rmwSteps (h : BusHandle) (p : Pin) (base : Byte) (set : Bool) : List BusStep :=
  [.readTmp h (chipAddr p.chip) (portReg base p), .writeTmp h (chipAddr p.chip) (portReg base p) (pinMask p) set]

/-- The duty write of a pin: one register write to its dimmer (R157). -/
def dutySteps (h : BusHandle) (p : Pin) (duty : Byte) : List BusStep :=
  [.writeReg h (chipAddr p.chip) (dimReg p) duty]

/-- One micro-step inside a bus operation of requester `r` (R132): take the lock, then on a muxed handle send the
select write, then send the payload and release. An error of either transaction releases and is raised. -/
def State.busMicro (s : State) (r : Nat) (b : BusStep) : State :=
  if s.lock = .held r then
    match b.handle, (s.seq r).selected with
    | .channel n, false =>
      match s.phys r b.handle .select muxAddr [.write [selectByte n]] with
      | (.ok _, s1) => s1.setSeq r { s1.seq r with selected := true }
      | (.err k, s1) => s1.raise r k
      | (.never, s1) => s1.hang r
    | _, _ =>
      match s.phys r b.handle .payload b.addr (b.payload (s.seq r).tmp) with
      | (.ok rx, s1) => (s1.release r).setSeq r (b.absorb rx (s1.seq r))
      | (.err k, s1) => s1.raise r k
      | (.never, s1) => s1.hang r
  else s.acquire r

/-! ## Admission (R73, R112, R113, R183) -/

/-- What happens to a command that is about to start. -/
inductive Admission where
  /-- It starts. -/
  | admitted
  /-- It is refused: `ILLEGAL`, with no other effect (R112). -/
  | refused
  /-- It waits for another command to complete (R73). -/
  | waits
  deriving DecidableEq, Repr

/-- Admit or refuse on a condition of the packet alone (R113, R159). -/
def admitIf (b : Bool) : Admission := if b then .admitted else .refused

/-- A further condition of the packet, checked of a command that is admitted otherwise (R190). -/
def Admission.andThen (entry : Admission) (b : Bool) : Admission :=
  match entry with
  | .admitted => admitIf b
  | .refused => .refused
  | .waits => .waits

/-- The pin a `CAP_*` command names (R73, R183). -/
def capPin : Instr → Option Pin
  | .capIntoOutput p => some p
  | .capIntoInput p => some p
  | .capIntoLed p => some p
  | .capOutSet p _ => some p
  | .capInRead p => some p
  | .capLedDuty p _ => some p
  | .capLedDutyFrac p _ _ => some p
  | .capLedDutyPct p _ => some p
  | .busRead _ _ _ | .busWrite _ _ _ | .busWriteRead _ _ _ _ | .busTransaction _ _ _ => none
  | .regRead _ _ _ | .regWrite _ _ _ _ | .chipInit _ => none
  | .pinSetMode _ _ | .pinSetDir _ _ | .pinSetState _ _ => none
  | .pinSetDuty _ _ | .pinSetDutyFrac _ _ _ | .pinSetDutyPct _ _ | .pinMaxDuty => none
  | .pidEncode _ | .snapRead | .snapPinState _ _ => none
  | .btnUpdate _ | .hexUpdate _ | .hexSetEnabled _ _ => none

/-- A command is `HEX_SET_ENABLED`, the one command that keeps the HEX unit busy (R73). -/
def isSetEnabled : Instr → Bool
  | .hexSetEnabled _ _ => true
  | .busRead _ _ _ | .busWrite _ _ _ | .busWriteRead _ _ _ _ | .busTransaction _ _ _ => false
  | .regRead _ _ _ | .regWrite _ _ _ _ | .chipInit _ => false
  | .pinSetMode _ _ | .pinSetDir _ _ | .pinSetState _ _ => false
  | .pinSetDuty _ _ | .pinSetDutyFrac _ _ _ | .pinSetDutyPct _ _ | .pinMaxDuty => false
  | .capIntoOutput _ | .capIntoInput _ | .capIntoLed _ | .capOutSet _ _ | .capInRead _ => false
  | .capLedDuty _ _ | .capLedDutyFrac _ _ _ | .capLedDutyPct _ _ => false
  | .pidEncode _ | .snapRead | .snapPinState _ _ | .btnUpdate _ | .hexUpdate _ => false

/-- Some requester other than `r` has a command in progress of which `test` holds (R73). -/
def State.otherInProgress (s : State) (r : Nat) (test : Instr → Bool) : Bool :=
  (List.range s.reqs.length).any fun k =>
    k != r && (s.seq k).started && (match (s.req k).cmd with | some i => test i | none => false)

/-- The capability tag of a pin (R28). -/
def State.capOf (s : State) (p : Pin) : CapTag := s.cap[pinIndex p]

/-- Set the capability tag of a pin (R28). -/
def State.setCap (s : State) (p : Pin) (t : CapTag) : State :=
  { s with cap := s.cap.set (pinIndex p).val t (pinIndex p).isLt }

/-- A pin whose handle the HEX unit owns (R242). -/
def isDetectPin (P : Params) (p : Pin) : Bool := P.hexDetectPin.toList.contains p

/-- Admission of a `CAP_*` command on pin `p` by requester `r` (R183): refused for a detect pin; waiting while
another `CAP_*` command on the pin is in progress; then admitted by the tag `allowed` accepts (log 12). -/
def State.admitCap (s : State) (r : Nat) (p : Pin) (allowed : CapTag → Bool) : Admission :=
  if isDetectPin s.cfg p then .refused
  else if s.otherInProgress r (fun i => capPin i == some p) then .waits
  else admitIf (allowed (s.capOf p))

/-- Admission to the HEX unit, which executes one command at a time: a HEX command waits until a `HEX_SET_ENABLED` in
progress has completed (R73, R236; D24). Where that one is wedged, or waits for ever behind a wedged bus, these rules
and R309 part, by which `HEX_UPDATE` still completes: the model follows R73 and R236, so the HEX command waits for
ever (DESIGN CHOICE, log 23). -/
def State.admitHex (s : State) (r : Nat) : Admission :=
  if s.otherInProgress r isSetEnabled then .waits else .admitted

/-! ## The sequencer -/

/-- The completing micro-operation: the local state update and the response, in one step (R23, R73). -/
def State.complete (s : State) (r : Nat) (finish : List Byte → State → State × List Byte) : State :=
  let finished := finish (s.seq r).held s
  finished.1.respond r (statusOk :: finished.2)

/-- One micro-step of the command of requester `r` (R24): a requester that waits for the lock, or whose wire
transaction never completes, performs none (R21, R63); a command not yet started is admitted, refused or left
waiting, and one without bus operations is a single atomic step (R73); else the next bus operation goes on, and
after the last one the command completes. -/
def State.microStep (s : State) (r : Nat) (entry : State → Nat → Admission) (bus : List BusStep)
    (finish : List Byte → State → State × List Byte) : State :=
  if r ∈ s.wait ∨ (s.seq r).hung then s
  else if (s.seq r).started then
    match bus[(s.seq r).idx]? with
    | some b => s.busMicro r b
    | none => s.complete r finish
  else
    match entry s r with
    | .admitted =>
      if bus.isEmpty then s.complete r finish else s.setSeq r { s.seq r with started := true }
    | .refused => s.respond r [statusIllegal]
    | .waits => s

/-- Up to `n` micro-steps of the command of requester `r`; it stops when the command has ended. -/
def State.advance (r : Nat) (entry : State → Nat → Admission) (bus : List BusStep)
    (finish : List Byte → State → State × List Byte) : Nat → State → State
  | 0, s => s
  | n + 1, s =>
    if (s.req r).cmd.isNone then s
    else State.advance r entry bus finish n (s.microStep r entry bus finish)

/-- The turn of the requester `s.turn` names, on command `i`: an idle requester takes the command, then up to
`budget` micro-steps follow; a requester in the middle of this command goes on with it (R18, R22, R24). A port that
does not exist, or that is executing another command, does nothing (U30; log 17). -/
def State.runCommand (s : State) (i : Instr) (entry : State → Nat → Admission) (bus : List BusStep)
    (finish : List Byte → State → State × List Byte) : State :=
  if s.turn.requester < s.reqs.length then
    match (s.req s.turn.requester).cmd with
    | none => State.advance s.turn.requester entry bus finish s.turn.budget (s.load s.turn.requester i)
    | some j => if j = i then State.advance s.turn.requester entry bus finish s.turn.budget s else s
  else s

/-! ## The common endings -/

/-- Admit always. -/
def admitAlways (_ : State) (_ : Nat) : Admission := .admitted

/-- End with the received bytes as the payload, no local state changed (R106). -/
def finishHeld (held : List Byte) (s : State) : State × List Byte := (s, held)

/-- End with no payload, no local state changed (R106). -/
def finishNone (_ : List Byte) (s : State) : State × List Byte := (s, [])

/-- End with a fixed payload, no local state changed (R106). -/
def finishWith (payload : List Byte) (_ : List Byte) (s : State) : State × List Byte := (s, payload)

/-! ## Time (R29, R217) -/

/-- Read the host's clock: the next foreseen value, else a free value that does not run backwards (R29; log 8). -/
def Clock.read (c : Clock) : Timestamp × Clock :=
  match c.script with
  | t :: rest => (t, { c with last := t, script := rest })
  | [] =>
    let t := if c.last.toNat ≤ (Config.reading c.draws).toNat then Config.reading c.draws else c.last
    (t, { c with last := t, draws := c.draws + 1 })

/-- The sampler of one update: the clock, and the sample already taken in this update (R217). -/
structure Sampler where
  clock : Clock
  taken : Option Timestamp
  deriving DecidableEq, Repr

/-- `sample(NOW)`: with `per_update` every sample of one update is the same value, with `per_entry` each reads the
clock (R217). -/
def Sampler.sample (m : Sampler) (mode : TsSampling) : Timestamp × Sampler :=
  match mode, m.taken with
  | .perUpdate, some t => (t, m)
  | _, _ => (m.clock.read.1, { clock := m.clock.read.2, taken := some m.clock.read.1 })

end Sys2Proof.Machine
end

