-- ==== Sys2Proof/Machine/BusOps.lean ====
section
/-! DEFINITION. The ARB unit's four commands (40_bus_ops.md section 2): the host's own transaction, forwarded
unchanged on the host's own handle (R132, R139). -/

namespace Sys2Proof.Machine

/-- The bus operation of `BUS_READ` (R135). -/
def busReadSteps (h : BusHandle) (a : Addr) (rlen : Byte) : List BusStep := [.forward h a [.read rlen]]

/-- `BUS_READ` (R135); `RLEN = 0` is refused (R113). -/
def execBusRead (h : BusHandle) (a : Addr) (rlen : Byte) (s : State) : Host.Outcome State Fault Refusal :=
  .next (s.runCommand (.busRead h a rlen) (fun _ _ => admitIf (rlen != 0)) (busReadSteps h a rlen) finishHeld)

/-- The bus operation of `BUS_WRITE` (R136). -/
def busWriteSteps (h : BusHandle) (a : Addr) (w : List Byte) : List BusStep := [.forward h a [.write w]]

/-- `BUS_WRITE` (R136); `WLEN = 0` is refused (R113). -/
def execBusWrite (h : BusHandle) (a : Addr) (w : List Byte) (s : State) : Host.Outcome State Fault Refusal :=
  .next (s.runCommand (.busWrite h a w) (fun _ _ => admitIf (!w.isEmpty)) (busWriteSteps h a w) finishNone)

/-- The bus operation of `BUS_WRITE_READ`: write and read in one wire transaction (R137). -/
def busWriteReadSteps (h : BusHandle) (a : Addr) (w : List Byte) (rlen : Byte) : List BusStep :=
  [.forward h a [.write w, .read rlen]]

/-- `BUS_WRITE_READ` (R137); `WLEN = 0` and `RLEN = 0` are refused (R113). -/
def execBusWriteRead (h : BusHandle) (a : Addr) (w : List Byte) (rlen : Byte) (s : State) :
    Host.Outcome State Fault Refusal :=
  .next (s.runCommand (.busWriteRead h a w rlen) (fun _ _ => admitIf (!w.isEmpty && rlen != 0))
    (busWriteReadSteps h a w rlen) finishHeld)

/-- A descriptor of `BUS_TRANSACTION` moves at least one byte (R113). -/
def descriptorNonempty : BusOp → Bool
  | .write d => !d.isEmpty
  | .read len => len != 0

/-- `NOPS` and every descriptor `LEN` are above 0 (R113). -/
def descriptorsNonempty (ops : List BusOp) : Bool := !ops.isEmpty && ops.all descriptorNonempty

/-- The bus operation of `BUS_TRANSACTION`: the whole list in one wire transaction (R138). -/
def busTransactionSteps (h : BusHandle) (a : Addr) (ops : List BusOp) : List BusStep := [.forward h a ops]

/-- `BUS_TRANSACTION` (R138); `NOPS = 0` and a descriptor `LEN = 0` are refused (R113). -/
def execBusTransaction (h : BusHandle) (a : Addr) (ops : List BusOp) (s : State) :
    Host.Outcome State Fault Refusal :=
  .next (s.runCommand (.busTransaction h a ops) (fun _ _ => admitIf (descriptorsNonempty ops))
    (busTransactionSteps h a ops) finishHeld)

end Sys2Proof.Machine
end

