-- ==== Sys2Proof/Machine/Buttons.lean ====
section
/-! DEFINITION. The BTN unit (44_buttons.md): the edge detector of the six buttons, its event records and the
three accessors of an event. There is no filter of any kind (R221). -/

namespace Sys2Proof.Machine

/-- `ButtonEvent{button, previous Observed?, now Observed}` (R96, R216). -/
structure ButtonEvent where
  button : Fin 6
  previous : Option Observation
  now : Observation
  deriving DecidableEq, Repr

/-- `pressed(e)`: the new state is Pressed (R218). -/
def ButtonEvent.pressed (e : ButtonEvent) : Bool := e.now.level == .pressed

/-- `released(e)`: the new state is Released (R219). -/
def ButtonEvent.released (e : ButtonEvent) : Bool := e.now.level == .released

/-- `duration(e)`: the difference of the two timestamps, modulo `2^TS_WIDTH`, absent without a previous
observation (R220). -/
def ButtonEvent.duration (e : ButtonEvent) : Option Timestamp := e.previous.map fun o => e.now.ts - o.ts

/-- The weight of the `Pressed` code at bit `k` of byte 0 of a record (R107). -/
def levelWeight (k : Nat) (l : ButtonLevel) : Nat := (levelCode l).toNat * 2 ^ k

/-- The record of a button event: byte 0 holds the button in bits 2:0, `prev_valid` in bit 3, `prev_level` in
bit 4, `now_level` in bit 5; then the two timestamps (R107). -/
def ButtonEvent.record (e : ButtonEvent) : List Byte :=
  match e.previous with
  | none =>
    BitVec.ofNat 8 (e.button.val + levelWeight 5 e.now.level) :: (timestampBytes 0 ++ timestampBytes e.now.ts)
  | some o =>
    BitVec.ofNat 8 (e.button.val + 8 + levelWeight 4 o.level + levelWeight 5 e.now.level)
      :: (timestampBytes o.ts ++ timestampBytes e.now.ts)

/-- A button has an event when no level was observed before or the level differs from the stored one (R216). -/
def buttonChanged (stored : Option Observation) (l : ButtonLevel) : Bool :=
  match stored with
  | none => true
  | some o => o.level != l

/-- What one `BTN_UPDATE` has done so far: the stored states, the sampler, the events (R216). -/
structure ButtonScan where
  btn : Vector (Option Observation) 6
  sampler : Sampler
  events : List ButtonEvent
  deriving DecidableEq, Repr

/-- One pass of the loop of R216, for button `b`. -/
def scanButton (P : Params) (snap : Snapshot) (acc : ButtonScan) (b : Fin 6) : ButtonScan :=
  let l := buttonLevel P snap b
  if buttonChanged acc.btn[b] l then
    let sampled := acc.sampler.sample P.tsSampling
    { btn := acc.btn.set b.val (some ⟨l, sampled.1⟩) b.isLt
      sampler := sampled.2
      events := acc.events ++ [{ button := b, previous := acc.btn[b], now := ⟨l, sampled.1⟩ }] }
  else acc

/-- The loop of R216 over the six buttons, ascending. -/
def scanButtons (P : Params) (snap : Snapshot) (btn : Vector (Option Observation) 6) (clock : Clock) : ButtonScan :=
  sixIndexes.foldl (scanButton P snap) { btn := btn, sampler := { clock := clock, taken := none }, events := [] }

/-- The payload of `BTN_UPDATE`: the number of events, then their records in order (R106). -/
def buttonPayload (events : List ButtonEvent) : List Byte :=
  BitVec.ofNat 8 events.length :: events.flatMap ButtonEvent.record

/-- The one atomic step of `BTN_UPDATE` (R216). -/
def finishButtons (snap : Snapshot) (_ : List Byte) (s : State) : State × List Byte :=
  let scan := scanButtons s.cfg snap s.btn s.clock
  ({ s with btn := scan.btn, clock := scan.sampler.clock }, buttonPayload scan.events)

/-- `BTN_UPDATE` (R216): no wire transaction, no lock. -/
def execBtnUpdate (snap : Snapshot) (s : State) : Host.Outcome State Fault Refusal :=
  .next (s.runCommand (.btnUpdate snap) admitAlways [] (finishButtons snap))

end Sys2Proof.Machine
end

