-- ==== Sys2Proof/Machine/Capability.lean ====
section
/-! DEFINITION. The pin identity encoder and the capability handles (42_pin_identity_capability.md): the commands
checked against `CAP` (R183), each of which admits the pin's tag and then does what the driver does. -/

namespace Sys2Proof.Machine

/-- `PID_ENCODE`: the identity encoder made visible, without a wire transaction (R181). -/
def execPidEncode (p : Pin) (s : State) : Host.Outcome State Fault Refusal :=
  .next (s.runCommand (.pidEncode p) admitAlways [] (finishWith (identityBytes p)))

/-- The local step of a conversion: the pin's tag, in one step after the last bus operation (R73, R184 to R186). -/
def finishCap (p : Pin) (t : CapTag) (_ : List Byte) (s : State) : State × List Byte := (s.setCap p t, [])

/-- The bus operations of `CAP_INTO_OUTPUT`: mode Gpio, then direction Output (R184). -/
def capIntoOutputSteps (h : BusHandle) (p : Pin) : List BusStep :=
  rmwSteps h p regLedms true ++ rmwSteps h p regConfig false

/-- `CAP_INTO_OUTPUT` (R184): from any tag but Output (R183). -/
def execCapIntoOutput (p : Pin) (s : State) : Host.Outcome State Fault Refusal :=
  .next (s.runCommand (.capIntoOutput p) (fun s r => s.admitCap r p (· != .output))
    (capIntoOutputSteps s.cfg.expBus p) (finishCap p .output))

/-- The bus operations of `CAP_INTO_INPUT`: mode Gpio, then direction Input (R185). -/
def capIntoInputSteps (h : BusHandle) (p : Pin) : List BusStep :=
  rmwSteps h p regLedms true ++ rmwSteps h p regConfig true

/-- `CAP_INTO_INPUT` (R185): from any tag but Input (R183). -/
def execCapIntoInput (p : Pin) (s : State) : Host.Outcome State Fault Refusal :=
  .next (s.runCommand (.capIntoInput p) (fun s r => s.admitCap r p (· != .input))
    (capIntoInputSteps s.cfg.expBus p) (finishCap p .input))

/-- The bus operations of `CAP_INTO_LED`: mode Led, then direction Output where `LED_DIR_WRITE` says so (R186). -/
def capIntoLedSteps (P : Params) (p : Pin) : List BusStep :=
  rmwSteps P.expBus p regLedms false ++
    match P.ledDirWrite with
    | .none => []
    | .output => rmwSteps P.expBus p regConfig false

/-- `CAP_INTO_LED` (R186): from any tag but Led (R183). -/
def execCapIntoLed (p : Pin) (s : State) : Host.Outcome State Fault Refusal :=
  .next (s.runCommand (.capIntoLed p) (fun s r => s.admitCap r p (· != .led))
    (capIntoLedSteps s.cfg p) (finishCap p .led))

/-- `CAP_OUT_SET`: the OUTPUT bit of a pin held as Output (R183, R187). -/
def execCapOutSet (p : Pin) (l : Level) (s : State) : Host.Outcome State Fault Refusal :=
  .next (s.runCommand (.capOutSet p l) (fun s r => s.admitCap r p (· == .output))
    (rmwSteps s.cfg.expBus p regOutput (levelBit l)) finishNone)

/-- The bus operation of `CAP_IN_READ`: the INPUT register of the pin's own port (R188). -/
def capInReadSteps (h : BusHandle) (p : Pin) : List BusStep :=
  [.readKept h (chipAddr p.chip) (portReg regInput p)]

/-- The payload of `CAP_IN_READ`: the pin's bit of the byte read (R188). -/
def finishBit (p : Pin) (held : List Byte) (s : State) : State × List Byte :=
  (s, [levelBitByte (bitOf (held.headD 0) p.bit)])

/-- `CAP_IN_READ`: the level of a pin held as Input (R183, R188). -/
def execCapInRead (p : Pin) (s : State) : Host.Outcome State Fault Refusal :=
  .next (s.runCommand (.capInRead p) (fun s r => s.admitCap r p (· == .input))
    (capInReadSteps s.cfg.expBus p) (finishBit p))

/-- `CAP_LED_DUTY`: the duty of a pin held as Led (R183, R189). -/
def execCapLedDuty (p : Pin) (duty : Byte) (s : State) : Host.Outcome State Fault Refusal :=
  .next (s.runCommand (.capLedDuty p duty) (fun s r => s.admitCap r p (· == .led))
    (dutySteps s.cfg.expBus p duty) finishNone)

/-- `CAP_LED_DUTY_FRAC`: the fractional duty of a pin held as Led; it is admitted as every capability command, with the
wait of R183, and then the fraction's precondition is checked as in `PIN_SET_DUTY_FRAC` (R159, R183, R190). -/
def execCapLedDutyFrac (p : Pin) (num den : BitVec 16) (s : State) : Host.Outcome State Fault Refusal :=
  .next (s.runCommand (.capLedDutyFrac p num den)
    (fun s r => (s.admitCap r p (· == .led)).andThen (fracAllowed num den))
    (dutySteps s.cfg.expBus p (fracDuty num den)) finishNone)

/-- `CAP_LED_DUTY_PCT`: the percent duty of a pin held as Led (R160, R183, R191). -/
def execCapLedDutyPct (p : Pin) (pct : Byte) (s : State) : Host.Outcome State Fault Refusal :=
  .next (s.runCommand (.capLedDutyPct p pct) (fun s r => s.admitCap r p (· == .led))
    (dutySteps s.cfg.expBus p (pctDuty pct)) finishNone)

end Sys2Proof.Machine
end

