-- ==== Sys2Proof/Machine/Hexpansion.lean ====
section
/-! DEFINITION. The HEX unit (45_hexpansion.md): the slot state machine, its event records, and the command that
enables or disables a slot. -/

namespace Sys2Proof.Machine

/-- The `state` of a slot event (R96, R108). -/
inductive SlotReport where
  | disabled
  | empty
  | occupied
  deriving DecidableEq, Repr

/-- `HexpansionSlotEvent{slot, timestamp, state}` (R96, R236). -/
structure SlotEvent where
  slot : Fin 6
  timestamp : Timestamp
  state : SlotReport
  deriving DecidableEq, Repr

/-- The `state` field of a record: 0 Disabled, 1 Empty, 2 Occupied (R108). -/
def slotReportCode : SlotReport → Nat
  | .disabled => 0
  | .empty => 1
  | .occupied => 2

/-- The record of a slot event: byte 0 holds the slot in bits 2:0 and the state in bits 5:4; then the timestamp
(R108). -/
def SlotEvent.record (e : SlotEvent) : List Byte :=
  BitVec.ofNat 8 (e.slot.val + 16 * slotReportCode e.state) :: timestampBytes e.timestamp

/-- The report and the new stored value of one slot in one update, or none where it stays silent (R236, R237):
a disabled slot reports once and does not look at the level; another slot reports a level that differs from the
stored one, or any level when none is stored. -/
def slotTransition (stored : SlotState) (occupied : Bool) : Option (SlotReport × SlotState) :=
  match stored with
  | .disabled false => some (.disabled, .disabled true)
  | .disabled true => none
  | .untracked => if occupied then some (.occupied, .occupied) else some (.empty, .empty)
  | .empty => if occupied then some (.occupied, .occupied) else none
  | .occupied => if occupied then none else some (.empty, .empty)

/-- What one `HEX_UPDATE` has done so far: the stored states, the sampler, the events (R236). -/
structure SlotScan where
  hex : Vector SlotState 6
  sampler : Sampler
  events : List SlotEvent
  deriving DecidableEq, Repr

/-- One pass of the loop of R236, for slot `k`. -/
def scanSlot (P : Params) (snap : Snapshot) (acc : SlotScan) (k : Fin 6) : SlotScan :=
  match slotTransition acc.hex[k] (slotLevel P snap k == .occupied) with
  | some (report, stored) =>
    let sampled := acc.sampler.sample P.tsSampling
    { hex := acc.hex.set k.val stored k.isLt
      sampler := sampled.2
      events := acc.events ++ [{ slot := k, timestamp := sampled.1, state := report }] }
  | none => acc

/-- The loop of R236 over the six slots, ascending. -/
def scanSlots (P : Params) (snap : Snapshot) (hex : Vector SlotState 6) (clock : Clock) : SlotScan :=
  sixIndexes.foldl (scanSlot P snap) { hex := hex, sampler := { clock := clock, taken := none }, events := [] }

/-- The payload of `HEX_UPDATE`: the number of events, then their records in order (R106). -/
def slotPayload (events : List SlotEvent) : List Byte :=
  BitVec.ofNat 8 events.length :: events.flatMap SlotEvent.record

/-- The one atomic step of `HEX_UPDATE` (R236). -/
def finishSlots (snap : Snapshot) (_ : List Byte) (s : State) : State × List Byte :=
  let scan := scanSlots s.cfg snap s.hex s.clock
  ({ s with hex := scan.hex, clock := scan.sampler.clock }, slotPayload scan.events)

/-- `HEX_UPDATE` (R236): no wire transaction, no lock; it waits while a `HEX_SET_ENABLED` is in progress (R73). -/
def execHexUpdate (snap : Snapshot) (s : State) : Host.Outcome State Fault Refusal :=
  .next (s.runCommand (.hexUpdate snap) (fun s r => s.admitHex r) [] (finishSlots snap))

/-- The bus operations of `HEX_SET_ENABLED` (R243). Enabling: mode Gpio, direction Input. Disabling: mode Gpio,
direction Output, level High. -/
def hexSetEnabledSteps (P : Params) (slot : Fin 6) (enable : Bool) : List BusStep :=
  let p := P.hexDetectPin[slot]
  if enable then rmwSteps P.expBus p regLedms true ++ rmwSteps P.expBus p regConfig true
  else rmwSteps P.expBus p regLedms true ++ (rmwSteps P.expBus p regConfig false ++ rmwSteps P.expBus p regOutput true)

/-- The local step of `HEX_SET_ENABLED`, after its last bus operation (R73, R243). -/
def finishSetEnabled (slot : Fin 6) (enable : Bool) (_ : List Byte) (s : State) : State × List Byte :=
  let tagged := s.setCap s.cfg.hexDetectPin[slot] (if enable then .input else .output)
  ({ tagged with hex := s.hex.set slot.val (if enable then .untracked else .disabled false) slot.isLt }, [])

/-- `HEX_SET_ENABLED` (R243): unconditional, it looks at neither `HEX[slot]` nor `CAP[p]`; it waits while another
`HEX_SET_ENABLED` is in progress (R73). -/
def execHexSetEnabled (slot : Fin 6) (enable : Bool) (s : State) : Host.Outcome State Fault Refusal :=
  .next (s.runCommand (.hexSetEnabled slot enable) (fun s r => s.admitHex r)
    (hexSetEnabledSteps s.cfg slot enable) (finishSetEnabled slot enable))

end Sys2Proof.Machine
end

