-- ==== Sys2Proof/Machine/RegisterDriver.lean ====
section
/-! DEFINITION. The DRV unit's register driver (41_register_driver.md): generic register access, chip
initialisation, and the unchecked `PIN_*` layer, which neither reads nor writes `CAP` (R104, R162). The expanders
are reached through the one handle `EXP_BUS` (R104). -/

namespace Sys2Proof.Machine

/-- The bus operation of `REG_READ` (R150). -/
def regReadSteps (h : BusHandle) (a : Addr) (g : Byte) : List BusStep := [.readKept h a g]

/-- `REG_READ`: any address, any offset, neither checked (R45, R150). -/
def execRegRead (h : BusHandle) (a : Addr) (g : Byte) (s : State) : Host.Outcome State Fault Refusal :=
  .next (s.runCommand (.regRead h a g) admitAlways (regReadSteps h a g) finishHeld)

/-- The bus operation of `REG_WRITE` (R151). -/
def regWriteSteps (h : BusHandle) (a : Addr) (g v : Byte) : List BusStep := [.writeReg h a g v]

/-- `REG_WRITE` (R151). -/
def execRegWrite (h : BusHandle) (a : Addr) (g v : Byte) (s : State) : Host.Outcome State Fault Refusal :=
  .next (s.runCommand (.regWrite h a g v) admitAlways (regWriteSteps h a g v) finishNone)

/-- The four bus operations of `CHIP_INIT`: read ID, write CTL, INT_P0, INT_P1 (R153). -/
def chipInitSteps (h : BusHandle) (c : Fin 3) : List BusStep :=
  [.readKept h (chipAddr c) regId, .writeReg h (chipAddr c) regCtl ctlInit,
    .writeReg h (chipAddr c) regIntP0 intInit, .writeReg h (chipAddr c) regIntP1 intInit]

/-- `CHIP_INIT`: the ID byte is returned and compared with nothing (R153). -/
def execChipInit (c : Fin 3) (s : State) : Host.Outcome State Fault Refusal :=
  .next (s.runCommand (.chipInit c) admitAlways (chipInitSteps s.cfg.expBus c) finishHeld)

/-- The bus operations of `PIN_SET_MODE` (R154). -/
def pinSetModeSteps (h : BusHandle) (p : Pin) (m : PinMode) : List BusStep := rmwSteps h p regLedms (modeBit m)

/-- `PIN_SET_MODE`: the pin's LEDMS bit, set for Gpio and cleared for Led (R154). -/
def execPinSetMode (p : Pin) (m : PinMode) (s : State) : Host.Outcome State Fault Refusal :=
  .next (s.runCommand (.pinSetMode p m) admitAlways (pinSetModeSteps s.cfg.expBus p m) finishNone)

/-- The bus operations of `PIN_SET_DIR` (R155). -/
def pinSetDirSteps (h : BusHandle) (p : Pin) (d : PinDir) : List BusStep := rmwSteps h p regConfig (dirBit d)

/-- `PIN_SET_DIR`: the pin's CONFIG bit, set for Input and cleared for Output (R155). -/
def execPinSetDir (p : Pin) (d : PinDir) (s : State) : Host.Outcome State Fault Refusal :=
  .next (s.runCommand (.pinSetDir p d) admitAlways (pinSetDirSteps s.cfg.expBus p d) finishNone)

/-- The bus operations of `PIN_SET_STATE` (R156). -/
def pinSetStateSteps (h : BusHandle) (p : Pin) (l : Level) : List BusStep := rmwSteps h p regOutput (levelBit l)

/-- `PIN_SET_STATE`: the pin's OUTPUT bit, set for High and cleared for Low (R156). -/
def execPinSetState (p : Pin) (l : Level) (s : State) : Host.Outcome State Fault Refusal :=
  .next (s.runCommand (.pinSetState p l) admitAlways (pinSetStateSteps s.cfg.expBus p l) finishNone)

/-- `PIN_SET_DUTY`: one write to the pin's dimmer register, no read (R157). -/
def execPinSetDuty (p : Pin) (duty : Byte) (s : State) : Host.Outcome State Fault Refusal :=
  .next (s.runCommand (.pinSetDuty p duty) admitAlways (dutySteps s.cfg.expBus p duty) finishNone)

/-- `PIN_SET_DUTY_FRAC`: the floor of `NUM * 255 / DEN`; `DEN = 0` and `NUM > DEN` are refused (R159). -/
def execPinSetDutyFrac (p : Pin) (num den : BitVec 16) (s : State) : Host.Outcome State Fault Refusal :=
  .next (s.runCommand (.pinSetDutyFrac p num den) (fun _ _ => admitIf (fracAllowed num den))
    (dutySteps s.cfg.expBus p (fracDuty num den)) finishNone)

/-- `PIN_SET_DUTY_PCT`: the floor of `pct * 255 / 100` (R160); a percent above 100 is illegal already in decoding. -/
def execPinSetDutyPct (p : Pin) (pct : Byte) (s : State) : Host.Outcome State Fault Refusal :=
  .next (s.runCommand (.pinSetDutyPct p pct) admitAlways (dutySteps s.cfg.expBus p (pctDuty pct)) finishNone)

/-- `PIN_MAX_DUTY`: the constant 255, without a wire transaction (R158). -/
def execPinMaxDuty (s : State) : Host.Outcome State Fault Refusal :=
  .next (s.runCommand .pinMaxDuty admitAlways [] (finishWith [maxDuty]))

end Sys2Proof.Machine
end

