-- ==== Sys2Proof/Machine/SnapshotReader.lean ====
section
/-! DEFINITION. The SNP unit (43_snapshot.md): reading the six input registers, and looking a pin up in a
snapshot. A snapshot is a value in a response or an operand, never a register of TGX (R31). -/

namespace Sys2Proof.Machine

/-- The three bus operations of `SNAP_READ`, in ascending chip address (R201). -/
def snapReadSteps (h : BusHandle) : List BusStep :=
  [.readPorts h (chipAddr 0), .readPorts h (chipAddr 1), .readPorts h (chipAddr 2)]

/-- `SNAP_READ`: three separately locked transactions, the six bytes delivered together or not at all (R201). -/
def execSnapRead (s : State) : Host.Outcome State Fault Refusal :=
  .next (s.runCommand .snapRead admitAlways (snapReadSteps s.cfg.expBus) finishHeld)

/-- `SNAP_PIN_STATE`: one bit of the operand snapshot, without a wire transaction (R204). -/
def execSnapPinState (p : Pin) (snap : Snapshot) (s : State) : Host.Outcome State Fault Refusal :=
  .next (s.runCommand (.snapPinState p snap) admitAlways [] (finishWith [levelBitByte (pinState snap p)]))

end Sys2Proof.Machine
end

