-- ==== Sys2Proof/Machine/Dispatch.lean ====
section
/-! DEFINITION. The meaning of every command, one arm each (30_encoding.md R103). -/

namespace Sys2Proof.Machine

/-- The turn of the requester that `s.turn` names, on the command `i`. -/
def exec (i : Instr) (s : State) : Host.Outcome State Fault Refusal :=
  match i with
  | .busRead h a rlen => Sys2Proof.Machine.execBusRead h a rlen s
  | .busWrite h a w => Sys2Proof.Machine.execBusWrite h a w s
  | .busWriteRead h a w rlen => Sys2Proof.Machine.execBusWriteRead h a w rlen s
  | .busTransaction h a ops => Sys2Proof.Machine.execBusTransaction h a ops s
  | .regRead h a g => Sys2Proof.Machine.execRegRead h a g s
  | .regWrite h a g v => Sys2Proof.Machine.execRegWrite h a g v s
  | .chipInit c => Sys2Proof.Machine.execChipInit c s
  | .pinSetMode p m => Sys2Proof.Machine.execPinSetMode p m s
  | .pinSetDir p d => Sys2Proof.Machine.execPinSetDir p d s
  | .pinSetState p l => Sys2Proof.Machine.execPinSetState p l s
  | .pinSetDuty p duty => Sys2Proof.Machine.execPinSetDuty p duty s
  | .pinSetDutyFrac p num den => Sys2Proof.Machine.execPinSetDutyFrac p num den s
  | .pinSetDutyPct p pct => Sys2Proof.Machine.execPinSetDutyPct p pct s
  | .pinMaxDuty => Sys2Proof.Machine.execPinMaxDuty s
  | .capIntoOutput p => Sys2Proof.Machine.execCapIntoOutput p s
  | .capIntoInput p => Sys2Proof.Machine.execCapIntoInput p s
  | .capIntoLed p => Sys2Proof.Machine.execCapIntoLed p s
  | .capOutSet p l => Sys2Proof.Machine.execCapOutSet p l s
  | .capInRead p => Sys2Proof.Machine.execCapInRead p s
  | .capLedDuty p duty => Sys2Proof.Machine.execCapLedDuty p duty s
  | .capLedDutyFrac p num den => Sys2Proof.Machine.execCapLedDutyFrac p num den s
  | .capLedDutyPct p pct => Sys2Proof.Machine.execCapLedDutyPct p pct s
  | .pidEncode p => Sys2Proof.Machine.execPidEncode p s
  | .snapRead => Sys2Proof.Machine.execSnapRead s
  | .snapPinState p snap => Sys2Proof.Machine.execSnapPinState p snap s
  | .btnUpdate snap => Sys2Proof.Machine.execBtnUpdate snap s
  | .hexUpdate snap => Sys2Proof.Machine.execHexUpdate snap s
  | .hexSetEnabled slot enable => Sys2Proof.Machine.execHexSetEnabled slot enable s

end Sys2Proof.Machine
end

