-- ==== Sys2Proof/Machine/Agenda.lean ====
section
/-! DEFINITION. The moves of the agents (00_scope.md R18): a packet presented on a port and decoded, a requester
going on with its command, a grant, the host's clock, another bus participant; and how a word of the opcode table is
presented. -/

namespace Sys2Proof.Machine

/-- Give the turn to requester `r`, for up to `budget` micro-steps. -/
def State.giveTurn (s : State) (r budget : Nat) : State := { s with turn := { requester := r, budget := budget } }

/-- A packet arrives on port `r` (R97, R98). It is taken only if the port exists and has no command in flight (R22,
U30; log 10); an illegal packet is answered at once (R112); any other becomes the command of `r`. -/
def State.present (s : State) (r : Nat) (packet : List Byte) (budget : Nat) : Host.Outcome State Fault Refusal :=
  if s.ready r then
    match decode packet with
    | .ok i => exec i (s.giveTurn r budget)
    | .error _ => .next (s.answerIllegal r)
  else .next s

/-- Requester `r` goes on with its command, if it has one (R24). -/
def State.resume (s : State) (r budget : Nat) : Host.Outcome State Fault Refusal :=
  match (s.req r).cmd with
  | some i => exec i (s.giveTurn r budget)
  | none => .next s

/-- One move of one agent (R18). -/
def State.move (s : State) : Move → Host.Outcome State Fault Refusal
  | .present r packet budget => s.present r packet budget
  | .run r budget => s.resume r budget
  | .grant r => .next (s.grant r)
  | .clock readings => .next { s with clock := { s.clock with script := readings } }
  | .drift d => .next { s with env := s.env.drift d }

/-- The port on which a table word is presented: the first ready one, else port 0 (log 21). -/
def State.fetchPort (s : State) : Nat := ((List.range s.reqs.length).find? s.ready).getD 0

/-- Make the fetch port ready, where it is not (log 21). -/
def State.readyPort (s : State) : State :=
  if s.ready s.fetchPort then s
  else s.setReq s.fetchPort { s.req s.fetchPort with cmd := none, seq := Seq.cleared (s.seq s.fetchPort).tmp }

end Sys2Proof.Machine
end

