-- ==== Sys2Proof/Machine/Step.lean ====
section
/-! DEFINITION. One step of the machine: the first entry of the agenda is performed. -/

namespace Sys2Proof.Machine

/-- One step: the agent at the head of the agenda moves (R18); with an empty agenda no agent moves (log 9). -/
def step (s : State) : Host.Outcome State Fault Refusal :=
  match s.agenda with
  | [] => .next s
  | m :: rest => State.move { s with agenda := rest } m

/-- The same machine with the packet of the opcode-table word `w` presented first, for a whole command's turn
(log 9, log 21). -/
def State.withFetchWord (s : State) (nbits w : Nat) : State :=
  { s.readyPort with agenda := .present s.fetchPort (tablePacket nbits w) wholeCommand :: s.agenda }

end Sys2Proof.Machine
end

