-- ==== Sys2Proof/Machine/HostLoop.lean ====
section
/-! DEFINITION. What the host issues (60_exceptions.md R269 to R271, 70_reset_and_hazards.md R292): the boot
sequence, the servicing of a poll tick and of a control message, as command lists. The loop itself and its event bus
are the host's (R5); these lists are the contract TGX's properties are stated under. -/

namespace Sys2Proof.Machine

/-- Boot step 1: initialise the three chips, ascending (R292). -/
def bootChips : List Instr := [.chipInit 0, .chipInit 1, .chipInit 2]

/-- Boot step 2: every button pin becomes an input (R292). -/
def bootButtons (P : Params) : List Instr := sixIndexes.map fun b => .capIntoInput P.buttonPin[b]

/-- Boot step 3: every slot is enabled, unless slots start disabled (R292). -/
def bootSlots (P : Params) : List Instr :=
  match P.hexResetState with
  | .untracked => sixIndexes.map fun k => .hexSetEnabled k true
  | .disabled => []

/-- `boot`: steps 1 to 3 of the boot sequence (R115, R292). -/
def bootSequence (P : Params) : List Instr := bootChips ++ (bootButtons P ++ bootSlots P)

/-- The first half of servicing a tick: the snapshot read (R270). -/
def tickRead : Instr := .snapRead

/-- The second half of servicing a tick: with an `OK` snapshot the two updates take its six bytes, with an error
neither is issued (R206, R270). R270 leaves the order of the two open: that `BTN_UPDATE` comes first is the model's
choice, which only the timestamps under `per_entry` could show (DESIGN CHOICE, log 25). -/
def tickUpdates : List Byte → List Instr
  | [status, s0, s1, s2, s3, s4, s5] =>
    if status = statusOk then [.btnUpdate ⟨s0, s1, s2, s3, s4, s5⟩, .hexUpdate ⟨s0, s1, s2, s3, s4, s5⟩] else []
  | _ => []

/-- Servicing a control message `HexpansionControlMsg{slot, enable}` (R125, R270). -/
def controlCommand (slot : Fin 6) (enable : Bool) : Instr := .hexSetEnabled slot enable

end Sys2Proof.Machine
end

