-- ==== Sys2Proof/Machine/Pseudocode.lean ====
section
/-! DEFINITION. The spec's pseudocode read in one piece: `bus_op` (40_bus_ops.md R132) and a command's
micro-operations without interruption, and the three tables that say, for every command, how it is admitted, which
bus operations it performs, and what it does at its end. Statements compare the micro-stepped machine with these;
the machine itself does not use them. -/

namespace Sys2Proof.Machine

/-- `bus_op(r, h, a, ops)` with the lock free before and after: on a channel the select write first, and the
payload only if the environment acknowledged it; on the direct handle the payload alone (R132). -/
def State.busOp (s : State) (r : Nat) (h : BusHandle) (a : Addr) (ops : List BusOp) : Reply × State :=
  match h with
  | .direct => s.phys r h .payload a ops
  | .channel n =>
    match s.phys r h .select muxAddr [.write [selectByte n]] with
    | (.ok _, s1) => s1.phys r h .payload a ops
    | (.err k, s1) => (.err k, s1)
    | (.never, s1) => (.never, s1)

/-- `TMP[r] <- v` (R152). -/
def State.setTmp (s : State) (r : Nat) (v : Byte) : State := s.setSeq r { s.seq r with tmp := v }

/-- `rmw(r, p, B, set)` on `EXP_BUS`, read in one piece: the read, `TMP[r]`, the unconditional write (R152). -/
def State.rmw (s : State) (r : Nat) (p : Pin) (base : Byte) (set : Bool) : Reply × State :=
  match s.busOp r s.cfg.expBus (chipAddr p.chip) [.write [portReg base p], .read 1] with
  | (.ok rx, s1) =>
    (s1.setTmp r (rx.headD 0)).busOp r s.cfg.expBus (chipAddr p.chip)
      [.write [portReg base p, modifyBit set (pinMask p) (rx.headD 0)]]
  | (.err k, s1) => (.err k, s1)
  | (.never, s1) => (.never, s1)

/-- Bus operations in order, each a handle, an address and an operation list, stopping at the first error or silence;
the received bytes in order (R153, R201, R249). -/
def State.busOps (r : Nat) : List (BusHandle × Addr × List BusOp) → List Byte → State → Reply × State
  | [], received, s => (.ok received, s)
  | (h, a, ops) :: rest, received, s =>
    match s.busOp r h a ops with
    | (.ok rx, s1) => State.busOps r rest (received ++ rx) s1
    | (.err k, s1) => (.err k, s1)
    | (.never, s1) => (.never, s1)

/-- The bytes of a bus operation that the response will be made of (R25, R106). -/
def BusStep.kept (rx : List Byte) : BusStep → List Byte
  | .forward _ _ _ => rx
  | .readKept _ _ _ => rx
  | .writeReg _ _ _ _ => []
  | .readTmp _ _ _ => []
  | .writeTmp _ _ _ _ _ => []
  | .readPorts _ _ => rx

/-- What a bus operation leaves in `TMP[r]` (R152). -/
def BusStep.keepTmp (rx : List Byte) (r : Nat) (s : State) : BusStep → State
  | .forward _ _ _ => s
  | .readKept _ _ _ => s
  | .writeReg _ _ _ _ => s
  | .readTmp _ _ _ => s.setTmp r (rx.headD 0)
  | .writeTmp _ _ _ _ _ => s
  | .readPorts _ _ => s

/-- The bus operations of a command in order, stopping at the first error or silence; the bytes kept (R249). -/
def State.runSteps (r : Nat) : List BusStep → List Byte → State → Reply × State
  | [], held, s => (.ok held, s)
  | b :: rest, held, s =>
    match s.busOp r b.handle b.addr (b.payload (s.seq r).tmp) with
    | (.ok rx, s1) => State.runSteps r rest (held ++ b.kept rx) (b.keepTmp rx r s1)
    | (.err k, s1) => (.err k, s1)
    | (.never, s1) => (.never, s1)

/-- The bus operations of every command (R67). -/
def commandSteps (P : Params) : Instr → List BusStep
  | .busRead h a rlen => busReadSteps h a rlen
  | .busWrite h a w => busWriteSteps h a w
  | .busWriteRead h a w rlen => busWriteReadSteps h a w rlen
  | .busTransaction h a ops => busTransactionSteps h a ops
  | .regRead h a g => regReadSteps h a g
  | .regWrite h a g v => regWriteSteps h a g v
  | .chipInit c => chipInitSteps P.expBus c
  | .pinSetMode p m => pinSetModeSteps P.expBus p m
  | .pinSetDir p d => pinSetDirSteps P.expBus p d
  | .pinSetState p l => pinSetStateSteps P.expBus p l
  | .pinSetDuty p duty => dutySteps P.expBus p duty
  | .pinSetDutyFrac p num den => dutySteps P.expBus p (fracDuty num den)
  | .pinSetDutyPct p pct => dutySteps P.expBus p (pctDuty pct)
  | .pinMaxDuty => []
  | .capIntoOutput p => capIntoOutputSteps P.expBus p
  | .capIntoInput p => capIntoInputSteps P.expBus p
  | .capIntoLed p => capIntoLedSteps P p
  | .capOutSet p l => rmwSteps P.expBus p regOutput (levelBit l)
  | .capInRead p => capInReadSteps P.expBus p
  | .capLedDuty p duty => dutySteps P.expBus p duty
  | .capLedDutyFrac p num den => dutySteps P.expBus p (fracDuty num den)
  | .capLedDutyPct p pct => dutySteps P.expBus p (pctDuty pct)
  | .pidEncode _ => []
  | .snapRead => snapReadSteps P.expBus
  | .snapPinState _ _ => []
  | .btnUpdate _ => []
  | .hexUpdate _ => []
  | .hexSetEnabled slot enable => hexSetEnabledSteps P slot enable

/-- The admission of every command by requester `r` (R73, R112, R113, R159, R183). -/
def commandAdmission (i : Instr) (s : State) (r : Nat) : Admission :=
  match i with
  | .busRead _ _ rlen => admitIf (rlen != 0)
  | .busWrite _ _ w => admitIf (!w.isEmpty)
  | .busWriteRead _ _ w rlen => admitIf (!w.isEmpty && rlen != 0)
  | .busTransaction _ _ ops => admitIf (descriptorsNonempty ops)
  | .regRead _ _ _ => .admitted
  | .regWrite _ _ _ _ => .admitted
  | .chipInit _ => .admitted
  | .pinSetMode _ _ => .admitted
  | .pinSetDir _ _ => .admitted
  | .pinSetState _ _ => .admitted
  | .pinSetDuty _ _ => .admitted
  | .pinSetDutyFrac _ num den => admitIf (fracAllowed num den)
  | .pinSetDutyPct _ _ => .admitted
  | .pinMaxDuty => .admitted
  | .capIntoOutput p => s.admitCap r p (· != .output)
  | .capIntoInput p => s.admitCap r p (· != .input)
  | .capIntoLed p => s.admitCap r p (· != .led)
  | .capOutSet p _ => s.admitCap r p (· == .output)
  | .capInRead p => s.admitCap r p (· == .input)
  | .capLedDuty p _ => s.admitCap r p (· == .led)
  | .capLedDutyFrac p num den => (s.admitCap r p (· == .led)).andThen (fracAllowed num den)
  | .capLedDutyPct p _ => s.admitCap r p (· == .led)
  | .pidEncode _ => .admitted
  | .snapRead => .admitted
  | .snapPinState _ _ => .admitted
  | .btnUpdate _ => .admitted
  | .hexUpdate _ => s.admitHex r
  | .hexSetEnabled _ _ => s.admitHex r

/-- The end of every command: its local state update and its payload, from the bytes kept (R106). -/
def commandFinish (i : Instr) (held : List Byte) (s : State) : State × List Byte :=
  match i with
  | .busRead _ _ _ => finishHeld held s
  | .busWrite _ _ _ => finishNone held s
  | .busWriteRead _ _ _ _ => finishHeld held s
  | .busTransaction _ _ _ => finishHeld held s
  | .regRead _ _ _ => finishHeld held s
  | .regWrite _ _ _ _ => finishNone held s
  | .chipInit _ => finishHeld held s
  | .pinSetMode _ _ => finishNone held s
  | .pinSetDir _ _ => finishNone held s
  | .pinSetState _ _ => finishNone held s
  | .pinSetDuty _ _ => finishNone held s
  | .pinSetDutyFrac _ _ _ => finishNone held s
  | .pinSetDutyPct _ _ => finishNone held s
  | .pinMaxDuty => finishWith [maxDuty] held s
  | .capIntoOutput p => finishCap p .output held s
  | .capIntoInput p => finishCap p .input held s
  | .capIntoLed p => finishCap p .led held s
  | .capOutSet _ _ => finishNone held s
  | .capInRead p => finishBit p held s
  | .capLedDuty _ _ => finishNone held s
  | .capLedDutyFrac _ _ _ => finishNone held s
  | .capLedDutyPct _ _ => finishNone held s
  | .pidEncode p => finishWith (identityBytes p) held s
  | .snapRead => finishHeld held s
  | .snapPinState p snap => finishWith [levelBitByte (pinState snap p)] held s
  | .btnUpdate snap => finishButtons snap held s
  | .hexUpdate snap => finishSlots snap held s
  | .hexSetEnabled slot enable => finishSetEnabled slot enable held s

/-- The register of a chip that a bus operation writes, if it is one of the driver's register writes (R61 W3). -/
def BusStep.stores : BusStep → Option (Addr × Byte)
  | .forward _ _ _ => none
  | .readKept _ _ _ => none
  | .writeReg _ a g _ => some (a, g)
  | .readTmp _ _ _ => none
  | .writeTmp _ a g _ _ => some (a, g)
  | .readPorts _ _ => none

end Sys2Proof.Machine
end

