-- ==== Sys2Proof/Safety.lean ====
section
/-! DEFINITION. The terms of statements about the machine: a requester that nothing hinders, the invariant of the
block state, and the discipline of the wire (40_bus_ops.md R134). -/

namespace Sys2Proof.Machine

/-- Requester `r` may issue a command now and has `n` micro-steps for it: it is its turn, its port exists and is
ready, it is not waiting for the lock, and the turn is long enough (R22). -/
abbrev State.mayIssue (s : State) (r n : Nat) : Prop :=
  s.turn.requester = r ∧ r < s.reqs.length ∧ (s.req r).cmd = none ∧ r ∉ s.wait ∧ n ≤ s.turn.budget

/-- Nothing hinders requester `r` for `n` micro-steps: it may issue a command, and the lock is free. -/
abbrev State.unhindered (s : State) (r n : Nat) : Prop := s.mayIssue r n ∧ s.lock = .free

/-- No other requester has a `CAP_*` command on pin `p` in progress (R183 d). -/
abbrev State.capIdle (s : State) (r : Nat) (p : Pin) : Prop :=
  ∀ k i, k ≠ r → (s.req k).cmd = some i → (s.seq k).started → capPin i ≠ some p

/-- No other requester has a `HEX_SET_ENABLED` in progress (R73). -/
abbrev State.hexIdle (s : State) (r : Nat) : Prop :=
  ∀ k i, k ≠ r → (s.req k).cmd = some i → (s.seq k).started → isSetEnabled i = false

/-- A packet that opens with the opcode byte `op` and is the packet of no command is answered `ILLEGAL`, and nothing
but `RES[r]` changes (R112). -/
def malformedIsIllegal (op : Byte) : Prop :=
  ∀ (s : State) (r n : Nat) (rest : List Byte), s.ready r → (∀ i : Instr, i.wf → op :: rest ≠ encode i) →
    s.present r (op :: rest) n = .next (s.answerIllegal r)

/-- The dimmer registers, as the table of R43 lists them. -/
def dimTable (p : Pin) : Byte :=
  (if p.port = 0 then [0x24, 0x25, 0x26, 0x27, 0x28, 0x29, 0x2A, 0x2B]
    else [0x20, 0x21, 0x22, 0x23, 0x2C, 0x2D, 0x2E, 0x2F]).getD p.bit.val 0

/-- The bit of a pin in a snapshot: byte `2 * chip + port` of the six, bit `K` (R203, R204). -/
def levelAt (snap : Snapshot) (p : Pin) : Bool :=
  ((snapshotBytes snap).getD (2 * p.chip.val + p.port.val) 0).getLsbD p.bit.val

/-- The first `n` readings of the host's clock, and the clock after them (R29). -/
def Clock.readings : Nat → Clock → List Timestamp × Clock
  | 0, c => ([], c)
  | n + 1, c => (c.read.1 :: (Clock.readings n c.read.2).1, (Clock.readings n c.read.2).2)

/-- The `n` samples of one update, and the clock after them (R217): with `per_update` one reading stands for all of
them, with `per_entry` each is a reading of its own; an update without a sample reads no clock. -/
def Clock.samples (mode : TsSampling) (n : Nat) (c : Clock) : List Timestamp × Clock :=
  match mode with
  | .perEntry => c.readings n
  | .perUpdate => if n = 0 then ([], c) else (List.replicate n c.read.1, c.read.2)

/-- A timestamp as eight bytes, the byte of weight `256 ^ k` at index `k` (R65, R107, R108). -/
def littleEndian (t : Timestamp) : List Byte := (List.range 8).map fun k => BitVec.ofNat 8 (t.toNat / 256 ^ k)

/-- The one bit of a pin in a byte, set or cleared (R152). -/
def withBit (p : Pin) (set : Bool) (v : Byte) : Byte :=
  if set then v ||| BitVec.ofNat 8 (2 ^ p.bit.val) else v &&& BitVec.ofNat 8 (255 - 2 ^ p.bit.val)

/-- Command `i` of requester `r` ends as a bus exchange says: with `answer rx` where the exchange delivers the bytes
`rx`, with the status of the error where it fails (R105, R262). -/
def State.endsAs (s : State) (r : Nat) (i : Instr) (exchange : Reply × State)
    (answer : List Byte → State → State × List Byte) : Prop :=
  (∀ rx s1, exchange = (.ok rx, s1) →
    exec i s = .next ((answer rx s1).1.respond r (0x00 :: (answer rx s1).2))) ∧
  (∀ k s1, exchange = (.err k, s1) → exec i s = .next (s1.respond r [errorCode k]))

/-- Command `i` of requester `r` is one register write on the handle `h`, with an empty answer (R92, R151). -/
def State.writesRegister (s : State) (r : Nat) (i : Instr) (h : BusHandle) (a : Addr) (g v : Byte) : Prop :=
  s.endsAs r i (s.busOp r h a [.write [g, v]]) fun _ t => (t, [])

/-- Command `i` of requester `r` is a read-modify-write of one chip register with an empty answer: a failed read ends
it; a byte `v` that was read is held in `TMP[r]` and `change v` is written back, whether it differs or not (R152). -/
def State.readsModifiesWrites (s : State) (r : Nat) (i : Instr) (a : Addr) (g : Byte) (change : Byte → Byte) :
    Prop :=
  (∀ k s1, s.busOp r s.cfg.expBus a [.write [g], .read 1] = (.err k, s1) →
    exec i s = .next (s1.respond r [errorCode k])) ∧
  (∀ rx s1, s.busOp r s.cfg.expBus a [.write [g], .read 1] = (.ok rx, s1) →
    ∃ v, rx = [v] ∧
      s.endsAs r i ((s1.setTmp r v).busOp r s.cfg.expBus a [.write [g, change v]]) fun _ t => (t, []))

/-- Requester `r` is refused: its command answers `ILLEGAL` and does nothing else (R112). -/
def State.isRefused (s : State) (r : Nat) (i : Instr) : Prop := exec i s = .next (s.respond r [0xFE])

/-- Requester `r` is inside a bus operation of its command, or waiting to begin one. -/
def State.busy (s : State) (r : Nat) : Prop := s.lock = .held r ∨ r ∈ s.wait

/-- The invariant of the block state (R20 to R25, R131): the ports are the parameter's, the register cells are
canonical, `WAIT` is a strictly rising list of requesters that ask for a lock they do not hold, a requester that
holds the lock or waits for it has a command in progress with a bus operation ahead, one that is in the middle of a
bus operation holds the lock, a requester without a command, or whose command has not started, has a cleared
sequencer, no `CAP_*` command in progress is about a detect pin (R183, R242), and no two commands in progress are
`CAP_*` commands on one pin or `HEX_SET_ENABLED` both (R73). -/
structure State.Inv (s : State) : Prop where
  ports : s.reqs.length = s.cfg.nReq
  memory : Memory.wf s.env.fill s.env.regs
  waitSorted : s.wait.Pairwise (· < ·)
  waitNotHolder : ∀ r ∈ s.wait, s.lock ≠ .held r
  busyCommand : ∀ r, s.busy r →
    r < s.reqs.length ∧ (s.seq r).started ∧
      ∃ i, (s.req r).cmd = some i ∧ (s.seq r).idx < (commandSteps s.cfg i).length
  midOperation : ∀ r, (s.seq r).selected ∨ (s.seq r).hung → s.lock = .held r
  notStarted : ∀ r, (s.seq r).started = false → s.seq r = Seq.cleared (s.seq r).tmp
  idleCleared : ∀ r, (s.req r).cmd = none → s.seq r = Seq.cleared (s.seq r).tmp
  detectOwned : ∀ r i p, (s.req r).cmd = some i → (s.seq r).started → capPin i = some p → isDetectPin s.cfg p = false
  capExclusive : ∀ r k i j p, r ≠ k → (s.req r).cmd = some i → (s.req k).cmd = some j →
    (s.seq r).started → (s.seq k).started → capPin i = some p → capPin j ≠ some p
  hexExclusive : ∀ r k i j, r ≠ k → (s.req r).cmd = some i → (s.req k).cmd = some j →
    (s.seq r).started → (s.seq k).started → isSetEnabled i = true → isSetEnabled j = false

/-- A wire transaction is the acknowledged select write of channel `n` for requester `r` (R61 W1). -/
def WireEvent.selects (e : WireEvent) (r : Nat) (n : Fin 8) : Prop :=
  e.requester = r ∧ e.handle = .channel n ∧ e.role = .select ∧ e.addr = muxAddr ∧
    e.ops = [.write [selectByte n]] ∧ ∃ bytes, e.outcome = .ok bytes

/-- What the transaction before `e` must be: for a payload on a channel, its acknowledged select write by the same
requester; and a select write is the one of its channel (R134 I2). -/
def WireEvent.follows (e : WireEvent) (before : Option WireEvent) : Prop :=
  match e.role, e.handle with
  | .payload, .channel n => ∃ p, before = some p ∧ p.selects e.requester n
  | .payload, .direct => True
  | .select, .channel n => e.addr = muxAddr ∧ e.ops = [.write [selectByte n]]
  | .select, .direct => False

/-- Every transaction of a trace follows what is before it. -/
def wireOrdered : Option WireEvent → List WireEvent → Prop
  | _, [] => True
  | before, e :: rest => e.follows before ∧ wireOrdered (some e) rest

/-- The discipline of the wire (R132, R134 I2): the trace is ordered, and a requester whose select write is done and
whose payload is not yet sent is at a bus operation on that channel, its select write being the last transaction on
the wire. -/
structure State.WireInv (s : State) : Prop where
  ordered : wireOrdered none s.wire
  pending : ∀ r, (s.seq r).selected → (s.seq r).hung = false →
    ∃ i b n e, (s.req r).cmd = some i ∧ (commandSteps s.cfg i)[(s.seq r).idx]? = some b ∧ b.handle = .channel n ∧
      s.wire.getLast? = some e ∧ e.selects r n

/-- The byte a chip register holds (R35). -/
def State.chipReg (s : State) (c : Fin 3) (g : Byte) : Byte := s.env.reg c g

/-- The bus commands that carry a host's own operation list (R135 to R138). -/
def isBusCommand : Instr → Bool
  | .busRead _ _ _ | .busWrite _ _ _ | .busWriteRead _ _ _ _ | .busTransaction _ _ _ => true
  | .regRead _ _ _ | .regWrite _ _ _ _ | .chipInit _ => false
  | .pinSetMode _ _ | .pinSetDir _ _ | .pinSetState _ _ => false
  | .pinSetDuty _ _ | .pinSetDutyFrac _ _ _ | .pinSetDutyPct _ _ | .pinMaxDuty => false
  | .capIntoOutput _ | .capIntoInput _ | .capIntoLed _ | .capOutSet _ _ | .capInRead _ => false
  | .capLedDuty _ _ | .capLedDutyFrac _ _ _ | .capLedDutyPct _ _ => false
  | .pidEncode _ | .snapRead | .snapPinState _ _ | .btnUpdate _ | .hexUpdate _ | .hexSetEnabled _ _ => false

end Sys2Proof.Machine
end

