-- ==== Sys2Proof/Certificates/Slice0/Obligations.lean ====
section
/-! DEFINITION. The statements for the provers. Each docstring says which rule or section of spec/ the statement
formalises, and where it rests on a choice of the spec or of the model, which one. -/

open Sys2Proof Sys2Proof.Machine

/-! ## Encoding -/

/-- The packet of every well-formed command decodes to that command (30_encoding.md sections 2, 3 and 5; the packet
encodings are the spec's own, its decision D1). -/
def Obligations.EncodeThenDecode : Prop := ∀ i : Instr, i.wf → decode (encode i) = .ok i

/-- A packet that decodes is well formed and is the packet of its command, so no packet has two meanings and no
command two packets (30_encoding.md sections 2, 3 and 5; decision D1). -/
def Obligations.DecodeThenEncode : Prop :=
  ∀ (bs : List Byte) (i : Instr), decode bs = .ok i → i.wf ∧ encode i = bs

/-- Seven of the packets the command rules write out decode to the commands they are examples of (40_bus_ops.md
section 2, 41_register_driver.md sections 1, 3 and 4, 42_pin_identity_capability.md, 45_hexpansion.md section 3; decision D1). -/
def Obligations.SpecPacketsDecode : Prop :=
  decode [0x01, 0x03, 0x20, 0x02] = .ok (.busRead (.channel 3) 0x20 2) ∧
  decode [0x04, 0x08, 0x50, 0x02, 0x01, 0x02, 0x00, 0x10, 0x00, 0x04] =
    .ok (.busTransaction .direct 0x50 [.write [0x00, 0x10], .read 4]) ∧
  decode [0x11, 0x07, 0x58, 0x11, 0x10] = .ok (.regWrite (.channel 7) 0x58 0x11 0x10) ∧
  decode [0x21, 0x2D, 0x00] = .ok (.pinSetDir ⟨2, 1, 5⟩ .output) ∧
  decode [0x24, 0x08, 0x01, 0x00, 0x04, 0x00] = .ok (.pinSetDutyFrac ⟨0, 1, 0⟩ 1 4) ∧
  decode [0x38, 0x1C] = .ok (.pidEncode ⟨1, 1, 4⟩) ∧
  decode [0x61, 0x02] = .ok (.hexSetEnabled 2 false)

/-- Only operands in range decode: the bus handle and the address, the pin identity, the one-bit values, the percent,
the chip index, the slot argument, and the `KIND` of every descriptor of a bus transaction, that is of each that
stands behind fewer than `NOPS` whole descriptors (30_encoding.md sections 2, 3, 5 and 6; decisions D1, D3, D4). -/
def Obligations.LegalOperandsAreInRange : Prop :=
  ∀ (op b : Byte) (rest : List Byte) (i : Instr), decode (op :: b :: rest) = .ok i →
    (op ∈ [0x01, 0x02, 0x03, 0x04, 0x10, 0x11] → b.toNat ≤ 8 ∧ (rest.headD 0).toNat < 128) ∧
    (op ∈ [0x20, 0x21, 0x22, 0x23, 0x24, 0x25, 0x30, 0x31, 0x32, 0x33, 0x34, 0x35, 0x36, 0x37, 0x38, 0x41] →
      b.toNat < 48) ∧
    (op ∈ [0x20, 0x21, 0x22, 0x33] → (rest.headD 0).toNat ≤ 1) ∧
    (op ∈ [0x25, 0x37] → (rest.headD 0).toNat ≤ 100) ∧
    (op = 0x12 → b.toNat < 3) ∧
    (op = 0x61 → b.toNat % 8 < 6 ∧ b.toNat < 16) ∧
    (op = 0x04 → ∀ (before : List BusOp) (kind : Byte) (after : List Byte), (∀ d ∈ before, descriptorFits d) →
      before.length < (rest.getD 1 0).toNat → rest.drop 2 = before.flatMap descriptorBytes ++ kind :: after →
      kind.toNat ≤ 1)

/-- A packet that decodes has the length the opcode and its length fields determine (30_encoding.md section 2;
decision D1). -/
def Obligations.DecodedLengthIsDetermined : Prop :=
  ∀ (bs : List Byte) (i : Instr), decode bs = .ok i → bs.length = packetLength bs

/-- A packet of no command, presented on a ready port, is answered `ILLEGAL` and changes nothing but the result
buffer of that port (30_encoding.md section 6; decision D2; that this is a next state is log 11). -/
def Obligations.MalformedPacketsAreIllegal : Prop :=
  ∀ (s : State) (r n : Nat) (packet : List Byte), s.ready r → (∀ i : Instr, i.wf → packet ≠ encode i) →
    ∃ t, s.present r packet n = .next t ∧ t.req r = { s.req r with res := [0xFE] } ∧
      (∀ k, k ≠ r → t.req k = s.req k) ∧ t.reqs.length = s.reqs.length ∧ t.lock = s.lock ∧ t.wait = s.wait ∧
      t.btn = s.btn ∧ t.hex = s.hex ∧ t.cap = s.cap ∧ t.env = s.env ∧ t.clock = s.clock ∧ t.wire = s.wire ∧
      t.cfg = s.cfg ∧ t.turn = s.turn ∧ t.agenda = s.agenda ∧ t.responses = s.responses ++ [(r, [0xFE])]

/-! ## The step -/

/-- A step whose move presents a packet on a ready port runs the command the packet decodes to, on the machine with
the turn given to that port (30_encoding.md section 2; the move and the turn are the model's, log 9). -/
def Obligations.StepRunsDecodedCommand : Prop :=
  ∀ (s : State) (r n : Nat) (packet : List Byte) (rest : List Move) (i : Instr),
    s.agenda = .present r packet n :: rest → s.ready r → decode packet = .ok i →
    i.wf ∧ step s = exec i { s with agenda := rest, turn := { requester := r, budget := n } }

/-- A step whose move lets a requester go on runs the command that requester has in flight (00_scope.md section 7,
10_state.md section 2; the move and the turn are the model's, log 9). -/
def Obligations.StepContinuesCommandInFlight : Prop :=
  ∀ (s : State) (r n : Nat) (rest : List Move) (i : Instr),
    s.agenda = .run r n :: rest → (s.req r).cmd = some i →
    step s = exec i { s with agenda := rest, turn := { requester := r, budget := n } }

/-- Every step answers a next state: TGX has no fault, and no command is without a meaning (60_exceptions.md
sections 1 to 3; the model's reading is log 11 and log 20). -/
def Obligations.EveryStepAnswersNext : Prop := ∀ s : State, ∃ t, step s = .next t

/-- A packet presented on a port that does not exist or has a command in flight is not taken, and nothing changes
(10_state.md section 2; the model's choice, log 10). -/
def Obligations.PacketOnBusyPortIsNotTaken : Prop :=
  ∀ (s : State) (r n : Nat) (packet : List Byte) (rest : List Move),
    s.agenda = .present r packet n :: rest → (s.reqs.length ≤ r ∨ ∃ i, (s.req r).cmd = some i) →
    step s = .next { s with agenda := rest }

/-! ## The lock -/

/-- The grant: a free lock goes to the waiting requester the arbiter picks, which leaves the waiting set; a grant
that is not enabled does nothing (40_bus_ops.md section 1; decision D6; the second half is log 10). -/
def Obligations.GrantServesAWaiter : Prop :=
  ∀ (s : State) (r : Nat) (rest : List Move), s.agenda = .grant r :: rest →
    (s.lock = .free → r ∈ s.wait → ∃ w, step s = .next { s with agenda := rest, lock := .held r, wait := w } ∧
      ∀ k, k ∈ w ↔ k ∈ s.wait ∧ k ≠ r) ∧
    (s.lock ≠ .free ∨ r ∉ s.wait → step s = .next { s with agenda := rest })

/-- A requester at the start of a bus operation takes a free lock; where another requester holds it, it joins the
waiting set and does no more (40_bus_ops.md section 1; decision D6). -/
def Obligations.AskingForTheLock : Prop :=
  ∀ (s : State) (i : Instr) (r n : Nat), s.turn = { requester := r, budget := n + 1 } → (s.req r).cmd = some i →
    (s.seq r).started → (s.seq r).hung = false → r ∉ s.wait → (s.seq r).idx < (commandSteps s.cfg i).length →
    (s.lock = .free → n = 0 → exec i s = .next { s with lock := .held r }) ∧
    (∀ k, k ≠ r → s.lock = .held k →
      ∃ w, exec i s = .next { s with wait := w } ∧ ∀ j, j ∈ w ↔ j = r ∨ j ∈ s.wait)

/-- A requester in the waiting set performs no step, however long its turn (10_state.md section 1; decision D6). -/
def Obligations.WaiterPerformsNoStep : Prop :=
  ∀ (s : State) (i : Instr), (s.req s.turn.requester).cmd = some i → s.turn.requester ∈ s.wait →
    exec i s = .next s

/-- A wire transaction that never completes wedges the bus: whatever moves follow, the lock stays held, nothing more
is seen on the wire, and no command that still needs the bus completes (20_memory.md section 1, 70_reset_and_hazards.md
section 3; decision D29; log 14). -/
def Obligations.WedgedBusStaysWedged : Prop :=
  ∀ (s t : State) (r n : Nat) (i : Instr), (s.req r).cmd = some i → s.lock = .held r → (s.seq r).hung →
    Host.Core.run Sys2Proof.core n s = .next t →
    t.lock = .held r ∧ (t.req r).cmd = some i ∧ t.wire = s.wire ∧
    ∀ k j, (s.req k).cmd = some j → (s.seq k).started → (s.seq k).idx < (commandSteps s.cfg j).length →
      (t.req k).cmd = some j

/-- Taking a transport error: when the select write or the payload of the bus operation a requester is in fails with
kind `k`, its command ends, the lock is free, `SEQ` and `CMD` are cleared, `RES` is the one status byte, nothing else
of TGX changes, the environment keeps what the transaction left, and the port is ready again; what byte `TMP` is left
with is not said (R262; the codes themselves are the spec's decision D2). -/
def Obligations.TransportErrorEntry : Prop :=
  ∀ (s s1 : State) (i : Instr) (r n : Nat) (b : BusStep) (k : TransportError),
    s.turn = { requester := r, budget := n + 1 } → (s.req r).cmd = some i → (s.seq r).started →
    (s.seq r).hung = false → r ∉ s.wait → s.lock = .held r → (commandSteps s.cfg i)[(s.seq r).idx]? = some b →
    ((∃ c, b.handle = .channel c ∧ (s.seq r).selected = false ∧
        s.phys r b.handle .select 0x77 [.write [BitVec.ofNat 8 (2 ^ c.val)]] = (.err k, s1)) ∨
      ((b.handle = .direct ∨ (s.seq r).selected) ∧
        s.phys r b.handle .payload b.addr (b.payload (s.seq r).tmp) = (.err k, s1))) →
    ∃ t, exec i s = .next t ∧ t.lock = .free ∧ (t.req r).cmd = none ∧ (t.req r).seq = Seq.cleared (t.seq r).tmp ∧
      (t.req r).res = [errorCode k] ∧ t.ready r ∧ t.responses = s.responses ++ [(r, [errorCode k])] ∧
      t.btn = s.btn ∧ t.hex = s.hex ∧ t.cap = s.cap ∧ t.wait = s.wait ∧ t.clock = s.clock ∧ t.cfg = s.cfg ∧
      t.turn = s.turn ∧ t.agenda = s.agenda ∧ t.env = s1.env ∧ t.wire = s1.wire ∧ t.reqs.length = s.reqs.length ∧
      ∀ j, j ≠ r → t.req j = s.req j

/-! ## Reset and invariants -/

/-- The block state right after reset (10_state.md section 12; its values are decisions D22 and D35; `TMP`, `MUXSEL`
and the chip registers are unspecified there and are left out here). -/
def Obligations.ResetState : Prop :=
  ∀ P : Params,
    let s := State.resetWith P
    s.cfg = P ∧ s.lock = .free ∧ s.wait = [] ∧ s.reqs.length = P.nReq ∧
    (∀ r, r < P.nReq → (s.req r).cmd = none ∧ (s.req r).res = [] ∧ s.seq r = Seq.cleared (s.seq r).tmp) ∧
    (∀ b : Fin 6, s.btn[b] = none) ∧
    (∀ k : Fin 6, s.hex[k] = match P.hexResetState with | .untracked => .untracked | .disabled => .disabled false) ∧
    (∀ p : Pin, s.capOf p = .free) ∧ s.wire = [] ∧ s.responses = []

/-- The state after reset satisfies the two invariants, whatever the parameters (10_state.md section 12). -/
def Obligations.ResetMeetsTheInvariants : Prop :=
  ∀ P : Params, (State.resetWith P).Inv ∧ (State.resetWith P).WireInv

/-- Every step keeps the invariant of the block state: mutual exclusion, the waiting set, the sequencers, the
interlocks, the detect pins, and the canonical register cells (10_state.md sections 1 and 2, 20_memory.md section 7,
40_bus_ops.md section 1, 42_pin_identity_capability.md section 2; decisions D6, D17, D24). -/
def Obligations.EveryStepKeepsTheInvariant : Prop := ∀ s t : State, s.Inv → step s = .next t → t.Inv

/-- Every step keeps the discipline of the wire: each payload sent through a channel stands right after the
acknowledged select write of that channel by the same requester (40_bus_ops.md section 1, invariant I2; that a failed
select sends no payload is decision D7). -/
def Obligations.EveryStepKeepsTheWireDiscipline : Prop :=
  ∀ s t : State, s.Inv → s.WireInv → step s = .next t → t.WireInv

/-- No step returns a capability tag to Free (10_state.md section 5, 42_pin_identity_capability.md section 3; decision
D17). -/
def Obligations.CapTagsNeverReturnToFree : Prop :=
  ∀ (s t : State) (p : Pin), step s = .next t → s.capOf p ≠ .free → t.capOf p ≠ .free

/-- No step returns a button to Unobserved (10_state.md section 3). -/
def Obligations.ObservedButtonsStayObserved : Prop :=
  ∀ (s t : State) (b : Fin 6), step s = .next t → s.btn[b] ≠ none → t.btn[b] ≠ none

/-- The tag of a detect pin is changed by `HEX_SET_ENABLED` only, in every state that meets the invariant
(45_hexpansion.md section 3; decision D17). -/
def Obligations.DetectPinTagsAreTheHexUnits : Prop :=
  ∀ (s t : State) (i : Instr) (p : Pin), s.Inv → isDetectPin s.cfg p → exec i s = .next t →
    (∀ k e, i ≠ .hexSetEnabled k e) → t.capOf p = s.capOf p

/-! ## Frames -/

/-- The local state each command may write, however far its turn takes it: another requester's port, the parameters,
the turn and the agenda never; `BTN` by `BTN_UPDATE` only; `HEX` by the two HEX commands only; `CAP` by the
conversions and `HEX_SET_ENABLED` only, and then one pin's tag or one slot; the clock is read by the two updates only;
and the five commands without wire traffic leave the bus alone (10_state.md sections 3 to 6, 20_memory.md section 4,
30_encoding.md section 3, 40_bus_ops.md section 3, 46_common_laws.md section 4, 60_exceptions.md section 1; that the
parameters, the turn and the agenda are never written is the model's, log 1 and log 9). -/
def Obligations.CommandsWriteOnlyTheirLocalState : Prop :=
  ∀ (s t : State) (i : Instr), exec i s = .next t →
    (∀ k, k ≠ s.turn.requester → t.req k = s.req k) ∧ t.reqs.length = s.reqs.length ∧
    t.cfg = s.cfg ∧ t.turn = s.turn ∧ t.agenda = s.agenda ∧
    ((∀ S, i ≠ .btnUpdate S) → t.btn = s.btn) ∧
    ((∀ S, i ≠ .hexUpdate S) → (∀ k e, i ≠ .hexSetEnabled k e) → t.hex = s.hex) ∧
    ((∀ S, i ≠ .btnUpdate S) → (∀ S, i ≠ .hexUpdate S) → t.clock = s.clock) ∧
    (∀ p, (∀ q, i = .capIntoOutput q ∨ i = .capIntoInput q ∨ i = .capIntoLed q → q ≠ p) →
      (∀ k e, i = .hexSetEnabled k e → s.cfg.hexDetectPin[k] ≠ p) → t.capOf p = s.capOf p) ∧
    (∀ k k' e, i = .hexSetEnabled k e → k' ≠ k → t.hex[k'] = s.hex[k']) ∧
    (i = .pinMaxDuty ∨ (∃ p, i = .pidEncode p) ∨ (∃ p S, i = .snapPinState p S) ∨ (∃ S, i = .btnUpdate S) ∨
        (∃ S, i = .hexUpdate S) →
      t.wire = s.wire ∧ t.env = s.env ∧ t.lock = s.lock ∧ t.wait = s.wait)

/-- The chip registers a driver command may write: under either environment, every register that none of its register
writes names holds what it held, and the pin levels are as before; and the register pointer of every chip it does not
address is as before. Of the chip a `REG_WRITE` is addressed to the first is said only for the offsets that store,
since the effect of a write to another offset is unspecified (10_state.md section 11, 20_memory.md sections 1 and 4,
95_test_vectors.md section 2; what is recorded of a chip is the model's, log 5 and log 22). -/
def Obligations.DriverCommandsWriteOnlyTheirRegisters : Prop :=
  ∀ (s t : State) (i : Instr), exec i s = .next t → isBusCommand i = false →
    t.env.pins = s.env.pins ∧ t.env.absent = s.env.absent ∧ t.env.law = s.env.law ∧
    (∀ (c : Fin 3) (g : Byte), (∀ h a g' v, i = .regWrite h a g' v → a = chipAddr c → isStorageReg g') →
      (∀ b ∈ commandSteps s.cfg i, b.stores ≠ some (chipAddr c, g)) → t.chipReg c g = s.chipReg c g) ∧
    ∀ c : Fin 3, (∀ b ∈ commandSteps s.cfg i, b.addr ≠ chipAddr c) → t.env.pointer[c] = s.env.pointer[c]

/-- A host's own transaction: it leaves the registers and the register pointer of every chip it is not addressed to,
the registers of every chip where it sends nothing, and the pin levels (10_state.md section 11, 40_bus_ops.md section
3, 95_test_vectors.md section 2; that a transaction of reads alone changes no register is the model's choice, log 5,
as is the record itself, log 5 and log 22). -/
def Obligations.BusCommandsLeaveOtherChips : Prop :=
  ∀ (s t : State) (i : Instr) (h : BusHandle) (a : Addr) (ops : List BusOp), exec i s = .next t →
    isBusCommand i → commandSteps s.cfg i = [.forward h a ops] →
    t.env.pins = s.env.pins ∧
    (∀ (c : Fin 3) (g : Byte), chipAddr c ≠ a ∨ (∀ op ∈ ops, ∃ len, op = .read len) →
      t.chipReg c g = s.chipReg c g) ∧
    ∀ c : Fin 3, chipAddr c ≠ a → t.env.pointer[c] = s.env.pointer[c]

/-! ## The wire -/

/-- The channel select: a bus operation on channel `N` first writes the one byte `1 << N` to address 0x77, whatever
was selected before; the payload follows if that write is acknowledged, and where it fails or never completes no
payload is sent and that is the result (40_bus_ops.md section 1, 30_encoding.md section 1; that a failed select sends
no payload is decision D7, log 18). -/
def Obligations.SelectByteComesFirst : Prop :=
  ∀ (s : State) (r : Nat) (n : Fin 8) (a : Addr) (ops : List BusOp),
    ∃ (o : Reply) (payload : List WireEvent),
      (s.busOp r (.channel n) a ops).2.wire = s.wire ++
        { requester := r, handle := .channel n, role := .select, addr := 0x77,
          ops := [.write [[0x01, 0x02, 0x04, 0x08, 0x10, 0x20, 0x40, 0x80].getD n.val 0]], outcome := o } :: payload ∧
      (∀ bytes, o = .ok bytes → payload =
        [⟨r, .channel n, .payload, a, ops, (s.busOp r (.channel n) a ops).1⟩]) ∧
      ((∀ bytes, o ≠ .ok bytes) → payload = [] ∧ (s.busOp r (.channel n) a ops).1 = o)

/-- Every transaction a command adds to the wire is its requester's own, and is a select write, the host's own
operation list for a bus command, and otherwise one of the three driver shapes (20_memory.md section 1). -/
def Obligations.CommandsSendOnlyTheListedShapes : Prop :=
  ∀ (s t : State) (i : Instr), exec i s = .next t →
    ∃ new, t.wire = s.wire ++ new ∧ ∀ e ∈ new, e.requester = s.turn.requester ∧
      ((e.role = .select ∧ e.addr = 0x77 ∧ ∃ n : Fin 8, e.handle = .channel n ∧
          e.ops = [.write [BitVec.ofNat 8 (2 ^ n.val)]]) ∨
       (e.role = .payload ∧ isBusCommand i ∧ commandSteps s.cfg i = [.forward e.handle e.addr e.ops]) ∨
       (e.role = .payload ∧ isBusCommand i = false ∧
         ((∃ g, e.ops = [.write [g], .read 1]) ∨ (∃ g v, e.ops = [.write [g, v]]) ∨
           e.ops = [.write [0x00, 0x01], .read 2])))

/-- The count of wire transactions: a command whose bus operations all succeed makes one transaction for each on the
direct handle and two on a channel; the counts of operations are those of the table; and the boot sequence with
untracked slots makes 120 on a muxed bus (20_memory.md section 4, 70_reset_and_hazards.md sections 2 and 4; the boot
order is decision D25). -/
def Obligations.WireTransactionCounts : Prop :=
  (∀ (s s1 : State) (r : Nat) (i : Instr) (held : List Byte) (direct : Bool),
    (∀ b ∈ commandSteps s.cfg i, b.handle = .direct ↔ direct) →
    s.runSteps r (commandSteps s.cfg i) [] = (.ok held, s1) →
    s1.wire.length = s.wire.length + (if direct then 1 else 2) * (commandSteps s.cfg i).length) ∧
  (∀ (P : Params) (h : BusHandle) (a : Addr) (v w : Byte) (bs : List Byte) (ops : List BusOp),
    (commandSteps P (.busRead h a v)).length = 1 ∧ (commandSteps P (.busWrite h a bs)).length = 1 ∧
    (commandSteps P (.busWriteRead h a bs v)).length = 1 ∧ (commandSteps P (.busTransaction h a ops)).length = 1 ∧
    (commandSteps P (.regRead h a v)).length = 1 ∧ (commandSteps P (.regWrite h a v w)).length = 1) ∧
  (∀ (P : Params) (p : Pin) (c : Fin 3) (m : PinMode) (d : PinDir) (l : Level) (v : Byte) (num den : BitVec 16),
    (commandSteps P (.chipInit c)).length = 4 ∧ (commandSteps P (.pinSetMode p m)).length = 2 ∧
    (commandSteps P (.pinSetDir p d)).length = 2 ∧ (commandSteps P (.pinSetState p l)).length = 2 ∧
    (commandSteps P (.pinSetDuty p v)).length = 1 ∧ (commandSteps P (.pinSetDutyFrac p num den)).length = 1 ∧
    (commandSteps P (.pinSetDutyPct p v)).length = 1 ∧ (commandSteps P .pinMaxDuty).length = 0 ∧
    (commandSteps P (.capIntoOutput p)).length = 4 ∧ (commandSteps P (.capIntoInput p)).length = 4 ∧
    (commandSteps P (.capIntoLed p)).length = (if P.ledDirWrite = .output then 4 else 2) ∧
    (commandSteps P (.capOutSet p l)).length = 2 ∧ (commandSteps P (.capInRead p)).length = 1 ∧
    (commandSteps P (.capLedDuty p v)).length = 1 ∧ (commandSteps P (.capLedDutyFrac p num den)).length = 1 ∧
    (commandSteps P (.capLedDutyPct p v)).length = 1 ∧ (commandSteps P (.pidEncode p)).length = 0) ∧
  (∀ (P : Params) (p : Pin) (S : Snapshot) (k : Fin 6),
    (commandSteps P .snapRead).length = 3 ∧ (commandSteps P (.snapPinState p S)).length = 0 ∧
    (commandSteps P (.btnUpdate S)).length = 0 ∧ (commandSteps P (.hexUpdate S)).length = 0 ∧
    (commandSteps P (.hexSetEnabled k true)).length = 4 ∧ (commandSteps P (.hexSetEnabled k false)).length = 6) ∧
  (∀ P : Params, P.hexResetState = .untracked →
    ((bootSequence P).map fun i => 2 * (commandSteps P i).length).sum = 120)

/-- With the lock free and nothing in the way, a whole command runs as its pseudocode reads: its bus operations in
order, ending with its response, with the status of the first error, or waiting for ever, with the lock, inside the
transaction that never completes (40_bus_ops.md section 1, 46_common_laws.md section 2, 60_exceptions.md section 2;
decisions D7, D29; log 13, log 14). -/
def Obligations.UninterruptedCommandsRunTheirPseudocode : Prop :=
  ∀ (s s1 : State) (i : Instr) (r : Nat), s.unhindered r (3 * (commandSteps s.cfg i).length + 2) →
    commandAdmission i s r = .admitted →
    (∀ held, s.runSteps r (commandSteps s.cfg i) [] = (.ok held, s1) →
      exec i s = .next ((commandFinish i held s1).1.respond r (0x00 :: (commandFinish i held s1).2))) ∧
    (∀ k, s.runSteps r (commandSteps s.cfg i) [] = (.err k, s1) → exec i s = .next (s1.respond r [errorCode k])) ∧
    (s.runSteps r (commandSteps s.cfg i) [] = (.never, s1) →
      ∃ t, exec i s = .next t ∧ t.lock = .held r ∧ (t.req r).cmd = some i ∧ (t.seq r).hung ∧ t.wire = s1.wire ∧
        t.responses = s.responses ∧ t.env = s1.env)

/-! ## The bus commands -/

/-- The four bus commands forward the host's own operations on the host's own handle and address, and answer the
bytes received, or nothing after a write, or the error unchanged (40_bus_ops.md section 2; decision D7). -/
def Obligations.BusCommandsForwardTheHostsOperations : Prop :=
  ∀ (s : State) (r : Nat) (h : BusHandle) (a : Addr), s.unhindered r 5 →
    (∀ n : Byte, n ≠ 0 → s.endsAs r (.busRead h a n) (s.busOp r h a [.read n]) fun rx t => (t, rx)) ∧
    (∀ w, w ≠ [] → s.endsAs r (.busWrite h a w) (s.busOp r h a [.write w]) fun _ t => (t, [])) ∧
    (∀ (w : List Byte) (n : Byte), w ≠ [] → n ≠ 0 →
      s.endsAs r (.busWriteRead h a w n) (s.busOp r h a [.write w, .read n]) fun rx t => (t, rx)) ∧
    (∀ ops, ops ≠ [] → (∀ op ∈ ops, op ≠ .read 0 ∧ op ≠ .write []) →
      s.endsAs r (.busTransaction h a ops) (s.busOp r h a ops) fun rx t => (t, rx))

/-- An operation of length 0 in a bus command is refused (30_encoding.md section 6; decision D8). -/
def Obligations.ZeroLengthsAreRefused : Prop :=
  ∀ (s : State) (r : Nat) (h : BusHandle) (a : Addr), s.mayIssue r 1 →
    s.isRefused r (.busRead h a 0) ∧ s.isRefused r (.busWrite h a []) ∧
    (∀ w n, w = [] ∨ n = 0 → s.isRefused r (.busWriteRead h a w n)) ∧
    (∀ ops, ops = [] ∨ .read 0 ∈ ops ∨ .write [] ∈ ops → s.isRefused r (.busTransaction h a ops))

/-! ## The register driver -/

/-- `REG_READ`: the offset is written and one byte is read in one transaction, and that byte is the answer; an error
is answered with its kind; a malformed packet is illegal (R150, R91). -/
def Obligations.RegisterRead : Prop :=
  (∀ (s : State) (r : Nat) (h : BusHandle) (a : Addr) (g : Byte), s.unhindered r 5 →
    s.endsAs r (.regRead h a g) (s.busOp r h a [.write [g], .read 1]) (fun rx t => (t, rx)) ∧
    (∀ rx s1, s.busOp r h a [.write [g], .read 1] = (.ok rx, s1) → ∃ v, rx = [v])) ∧
  (∀ h a g, encode (.regRead h a g) = [0x10, busselByte h, addrByte a, g]) ∧ malformedIsIllegal 0x10

/-- `REG_WRITE`: the offset and the value are written in one transaction, whatever the offset is; an error is answered
with its kind; a malformed packet is illegal (R151, R92). -/
def Obligations.RegisterWrite : Prop :=
  (∀ (s : State) (r : Nat) (h : BusHandle) (a : Addr) (g v : Byte), s.unhindered r 5 →
    s.writesRegister r (.regWrite h a g v) h a g v) ∧
  (∀ h a g v, encode (.regWrite h a g v) = [0x11, busselByte h, addrByte a, g, v]) ∧ malformedIsIllegal 0x11

/-- `CHIP_INIT`: ID is read, then CTL is written 0x10, INT_P0 and INT_P1 0xFF, and the answer is the ID byte; an error
ends it there (41_register_driver.md section 2; the order is decision D20). -/
def Obligations.ChipInitialisation : Prop :=
  ∀ (s : State) (r : Nat) (c : Fin 3), s.unhindered r 14 →
    let E := s.cfg.expBus
    let A : Addr := [0x58, 0x59, 0x5A].getD c.val 0
    let exchange := s.busOps r [(E, A, [.write [0x10], .read 1]), (E, A, [.write [0x11, 0x10]]),
      (E, A, [.write [0x06, 0xFF]]), (E, A, [.write [0x07, 0xFF]])] []
    s.endsAs r (.chipInit c) exchange (fun rx t => (t, rx)) ∧
    (∀ rx s1, exchange = (.ok rx, s1) → ∃ v, rx = [v])

/-- `PIN_SET_MODE`: a read-modify-write of the LED-mode register of the pin's port, the pin's bit set for Gpio and
cleared for Led; `CAP` is untouched; a malformed packet is illegal (R154). -/
def Obligations.PinSetMode : Prop :=
  (∀ (s : State) (r : Nat) (p : Pin) (m : PinMode), s.unhindered r 8 →
    s.readsModifiesWrites r (.pinSetMode p m) (chipAddr p.chip) (if p.port = 0 then 0x12 else 0x13)
      (withBit p (m = .gpio))) ∧
  (∀ (s t : State) p m, exec (.pinSetMode p m) s = .next t → t.cap = s.cap) ∧
  (∀ p, encode (.pinSetMode p .gpio) = [0x20, pidByte p, 1] ∧ encode (.pinSetMode p .led) = [0x20, pidByte p, 0]) ∧
  malformedIsIllegal 0x20

/-- `PIN_SET_DIR`: a read-modify-write of the CONFIG register of the pin's port, the pin's bit set for Input and
cleared for Output; `CAP` is untouched; a malformed packet is illegal (R155). -/
def Obligations.PinSetDirection : Prop :=
  (∀ (s : State) (r : Nat) (p : Pin) (d : PinDir), s.unhindered r 8 →
    s.readsModifiesWrites r (.pinSetDir p d) (chipAddr p.chip) (if p.port = 0 then 0x04 else 0x05)
      (withBit p (d = .input))) ∧
  (∀ (s t : State) p d, exec (.pinSetDir p d) s = .next t → t.cap = s.cap) ∧
  (∀ p, encode (.pinSetDir p .input) = [0x21, pidByte p, 1] ∧ encode (.pinSetDir p .output) = [0x21, pidByte p, 0]) ∧
  malformedIsIllegal 0x21

/-- `PIN_SET_STATE`: a read-modify-write of the OUTPUT register of the pin's port, the pin's bit set for High and
cleared for Low (41_register_driver.md section 3; the polarity is decision D15). -/
def Obligations.PinSetState : Prop :=
  ∀ (s : State) (r : Nat) (p : Pin) (l : Level), s.unhindered r 8 →
    s.readsModifiesWrites r (.pinSetState p l) (chipAddr p.chip) (if p.port = 0 then 0x02 else 0x03)
      (withBit p (l = .high))

/-- Every read-modify-write command (`PIN_SET_MODE`, `PIN_SET_DIR`, `PIN_SET_STATE`, the conversions, `CAP_OUT_SET`,
`HEX_SET_ENABLED`) that is resumed right before one of its register writes writes back the byte it read, changed in
the pin's one bit, whatever has happened to the register since: a successful write moves the sequencer on by one and
leaves the lock free, a failed one ends the command with its status, and the last one of a command is followed by its
end. Each such write stands right behind the read of the same register (41_register_driver.md section 1,
70_reset_and_hazards.md section 3; the resumption at a micro-step is log 9). -/
def Obligations.StaleByteIsWrittenBack : Prop :=
  (∀ (s : State) (r : Nat) (i : Instr) (h : BusHandle) (a : Addr) (g mask : Byte) (set : Bool),
    s.turn.requester = r → (s.req r).cmd = some i → (s.seq r).started → (s.seq r).hung = false →
    (s.seq r).selected = false → r ∉ s.wait → s.lock = .free →
    (commandSteps s.cfg i)[(s.seq r).idx]? = some (.writeTmp h a g mask set) →
    let written := s.busOp r h a [.write [g, modifyBit set mask (s.seq r).tmp]]
    (s.turn.budget = (if h = .direct then 2 else 3) → ∀ rx s1, written = (.ok rx, s1) → s1.lock = .free ∧
      exec i s = .next (s1.setSeq r { s.seq r with idx := (s.seq r).idx + 1 })) ∧
    (3 ≤ s.turn.budget → ∀ k s1, written = (.err k, s1) → exec i s = .next (s1.respond r [errorCode k])) ∧
    (4 ≤ s.turn.budget → (s.seq r).idx + 1 = (commandSteps s.cfg i).length →
      s.endsAs r i written fun _ t => commandFinish i (s.seq r).held t)) ∧
  (∀ (P : Params) (i : Instr) (k : Nat) (h : BusHandle) (a : Addr) (g mask : Byte) (set : Bool),
    (commandSteps P i)[k]? = some (.writeTmp h a g mask set) →
    ∃ (j : Nat) (p : Pin), k = j + 1 ∧ (commandSteps P i)[j]? = some (.readTmp h a g) ∧ h = P.expBus ∧
      a = chipAddr p.chip ∧ ∀ v, modifyBit set mask v = withBit p set v) ∧
  ∀ (P : Params) (p : Pin) (m : PinMode) (d : PinDir) (l : Level) (k : Fin 6) (e : Bool),
    ∀ i ∈ [.pinSetMode p m, .pinSetDir p d, .pinSetState p l, .capIntoOutput p, .capIntoInput p, .capIntoLed p,
      .capOutSet p l, .hexSetEnabled k e],
    ∃ h a g mask set, (commandSteps P i)[1]? = some (.writeTmp h a g mask set)

/-- `PIN_SET_DUTY`: one write of the duty to the pin's dimmer register, and no read; a malformed packet is illegal
(R157). -/
def Obligations.PinSetDuty : Prop :=
  (∀ (s : State) (r : Nat) (p : Pin) (d : Byte), s.unhindered r 5 →
    s.writesRegister r (.pinSetDuty p d) s.cfg.expBus (chipAddr p.chip) (dimTable p) d) ∧
  (∀ p d, encode (.pinSetDuty p d) = [0x23, pidByte p, d]) ∧ malformedIsIllegal 0x23

/-- `PIN_SET_DUTY_FRAC` and `PIN_SET_DUTY_PCT`: one write of the floor of the fraction of 255; a zero denominator and
a numerator above it are refused (41_register_driver.md section 4; decision D19). -/
def Obligations.PinFractionalDuty : Prop :=
  ∀ (s : State) (r : Nat) (p : Pin),
    (∀ num den : BitVec 16, s.unhindered r 5 → 1 ≤ den.toNat → num.toNat ≤ den.toNat →
      s.writesRegister r (.pinSetDutyFrac p num den) s.cfg.expBus (chipAddr p.chip) (dimTable p)
        (BitVec.ofNat 8 (num.toNat * 255 / den.toNat))) ∧
    (∀ num den : BitVec 16, s.mayIssue r 1 → den.toNat = 0 ∨ den.toNat < num.toNat →
      s.isRefused r (.pinSetDutyFrac p num den)) ∧
    (∀ pct : Byte, s.unhindered r 5 → pct.toNat ≤ 100 →
      s.writesRegister r (.pinSetDutyPct p pct) s.cfg.expBus (chipAddr p.chip) (dimTable p)
        (BitVec.ofNat 8 (pct.toNat * 255 / 100)))

/-- `PIN_MAX_DUTY` answers 0xFF, without a wire transaction and without the lock, whoever holds it (R158). -/
def Obligations.PinMaxDuty : Prop :=
  (∀ (s : State) (r : Nat), s.mayIssue r 1 → exec .pinMaxDuty s = .next (s.respond r [0x00, 0xFF])) ∧
  encode .pinMaxDuty = [0x26]

/-- The laws of the duty division, for a fraction between 0 and 1: its ends, when it is 0 and when 255, that it grows
with the numerator, that the fraction and not its form decides it, and that a percent is a fraction of 100
(46_common_laws.md section 1). -/
def Obligations.DutyLaws : Prop :=
  ∀ n d : BitVec 16, 1 ≤ d.toNat → n.toNat ≤ d.toNat →
    (fracDuty n d).toNat = n.toNat * 255 / d.toNat ∧
    fracDuty 0 d = 0 ∧ fracDuty d d = 255 ∧ (fracDuty n d = 255 ↔ n = d) ∧
    (fracDuty n d = 0 ↔ n.toNat * 255 < d.toNat) ∧
    (∀ m : BitVec 16, m.toNat ≤ n.toNat → (fracDuty m d).toNat ≤ (fracDuty n d).toNat) ∧
    (∀ k : Nat, 1 ≤ k → k * d.toNat ≤ 65535 →
      fracDuty (BitVec.ofNat 16 (k * n.toNat)) (BitVec.ofNat 16 (k * d.toNat)) = fracDuty n d) ∧
    (∀ pct : Byte, pct.toNat ≤ 100 → pctDuty pct = fracDuty (BitVec.ofNat 16 pct.toNat) 100)

/-- The laws of setting and clearing a pin's bit: the other bits stay, the bit is as asked, doing it twice is doing it
once, and on different bits the order does not matter (46_common_laws.md section 1). -/
def Obligations.BitLaws : Prop :=
  ∀ (p q : Pin) (x y : Bool) (v : Byte),
    (modifyBit x (pinMask p) v).getLsbD p.bit.val = x ∧
    (∀ k, k ≠ p.bit.val → (modifyBit x (pinMask p) v).getLsbD k = v.getLsbD k) ∧
    modifyBit x (pinMask p) (modifyBit x (pinMask p) v) = modifyBit x (pinMask p) v ∧
    (p.bit ≠ q.bit → modifyBit x (pinMask p) (modifyBit y (pinMask q) v) =
      modifyBit y (pinMask q) (modifyBit x (pinMask p) v))

/-- In the reference environment, with the pin's chip present, the three pin commands change exactly the pin's bit of
exactly one register of exactly that chip, whatever was selected before, and answer OK (41_register_driver.md
section 3, 95_test_vectors.md section 2; that environment is the spec's own, decision D26). -/
def Obligations.ReferenceChipsTakeOneBit : Prop :=
  ∀ (s : State) (r : Nat) (p : Pin) (i : Instr) (base : Byte) (set : Bool), s.unhindered r 8 →
    s.env.law = .reference → p.chip ∉ s.env.absent →
    (∃ m, i = .pinSetMode p m ∧ base = 0x12 ∧ (set ↔ m = .gpio)) ∨
      (∃ d, i = .pinSetDir p d ∧ base = 0x04 ∧ (set ↔ d = .input)) ∨
      (∃ l, i = .pinSetState p l ∧ base = 0x02 ∧ (set ↔ l = .high)) →
    ∃ t, exec i s = .next t ∧ (t.req r).res = [0x00] ∧ t.lock = .free ∧
      ∀ (c : Fin 3) (g : Byte), t.env.referenceRead c g =
        if c = p.chip ∧ g.toNat = base.toNat + p.port.val then withBit p set (s.env.referenceRead c g)
        else s.env.referenceRead c g

/-- Under no law of the environment, TGX never acts on what it recorded of the chips: two machines that differ only in
the recorded selection, registers, register pointers, pin levels and absences run every command alike, and go on
differing in no more (10_state.md sections 6, 8, 9 and 11; the record is the model's, log 5 and log 22). -/
def Obligations.RecordedChipsDoNotSteer : Prop :=
  ∀ (s t : State) (i : Instr) (e : Environment), s.env.law = .general → e.law = .general →
    e.script = s.env.script → e.draws = s.env.draws → exec i s = .next t →
    ∃ e', exec i { s with env := e } = .next { t with env := e' } ∧ e'.law = .general ∧
      e'.script = t.env.script ∧ e'.draws = t.env.draws ∧ e'.pins = e.pins ∧ e'.absent = e.absent

/-! ## Pin identities and capabilities -/

/-- `PID_ENCODE` answers the chip address, the four port registers, the dimmer register and the mask of the pin,
without a wire transaction (42_pin_identity_capability.md section 1; the command is the spec's, decision D3). -/
def Obligations.PinIdentity : Prop :=
  ∀ (s : State) (r : Nat) (p : Pin), s.mayIssue r 1 →
    exec (.pidEncode p) s = .next (s.respond r [0x00, [0x58, 0x59, 0x5A].getD p.chip.val 0,
      if p.port = 0 then 0x00 else 0x01, if p.port = 0 then 0x02 else 0x03, if p.port = 0 then 0x04 else 0x05,
      if p.port = 0 then 0x12 else 0x13, dimTable p, BitVec.ofNat 8 (2 ^ p.bit.val)])

/-- The conversions: mode then direction by read-modify-writes, and the tag only when both succeeded; a failed one
leaves the tag. Led writes the direction only where the parameter says so (42_pin_identity_capability.md section 2;
decisions D16, D17, D23). -/
def Obligations.CapabilityConversions : Prop :=
  ∀ (s : State) (r : Nat) (p : Pin), s.unhindered r 14 → isDetectPin s.cfg p = false → s.capIdle r p →
    let second (x : Reply × State) (set : Bool) : Reply × State :=
      match x with
      | (.ok _, s1) => s1.rmw r p 0x04 set
      | other => other
    (s.capOf p ≠ .output → s.endsAs r (.capIntoOutput p) (second (s.rmw r p 0x12 true) false)
      fun _ t => ({ t with cap := t.cap.set (pinIndex p) .output }, [])) ∧
    (s.capOf p ≠ .input → s.endsAs r (.capIntoInput p) (second (s.rmw r p 0x12 true) true)
      fun _ t => ({ t with cap := t.cap.set (pinIndex p) .input }, [])) ∧
    (s.capOf p ≠ .led → s.endsAs r (.capIntoLed p)
      (if s.cfg.ledDirWrite = .output then second (s.rmw r p 0x12 false) false else s.rmw r p 0x12 false)
      fun _ t => ({ t with cap := t.cap.set (pinIndex p) .led }, [])) ∧
    (∀ (base : Byte) (set : Bool) (x : Reply) (s1 : State), s.rmw r p base set = (x, s1) → s1.cap = s.cap)

/-- What each handle can do: an Output handle drives the pin's OUTPUT bit, an Input handle reads the pin's INPUT bit,
a Led handle writes the pin's dimmer register (42_pin_identity_capability.md section 2; decisions D17, D18, D19). -/
def Obligations.CapabilityUses : Prop :=
  ∀ (s : State) (r : Nat) (p : Pin), s.unhindered r 8 → isDetectPin s.cfg p = false → s.capIdle r p →
    (∀ l, s.capOf p = .output →
      s.readsModifiesWrites r (.capOutSet p l) (chipAddr p.chip) (if p.port = 0 then 0x02 else 0x03)
        (withBit p (l = .high))) ∧
    (s.capOf p = .input →
      s.endsAs r (.capInRead p)
        (s.busOp r s.cfg.expBus (chipAddr p.chip) [.write [if p.port = 0 then 0x00 else 0x01], .read 1])
        fun rx t => (t, [if (rx.headD 0).getLsbD p.bit.val then 0x01 else 0x00])) ∧
    (s.capOf p = .led →
      (∀ d, s.writesRegister r (.capLedDuty p d) s.cfg.expBus (chipAddr p.chip) (dimTable p) d) ∧
      (∀ num den : BitVec 16, 1 ≤ den.toNat → num.toNat ≤ den.toNat →
        s.writesRegister r (.capLedDutyFrac p num den) s.cfg.expBus (chipAddr p.chip) (dimTable p)
          (BitVec.ofNat 8 (num.toNat * 255 / den.toNat))) ∧
      (∀ pct : Byte, pct.toNat ≤ 100 →
        s.writesRegister r (.capLedDutyPct p pct) s.cfg.expBus (chipAddr p.chip) (dimTable p)
          (BitVec.ofNat 8 (pct.toNat * 255 / 100))))

/-- The refusals: any capability command on a detect pin, also while another one waits or works; and, with no other
capability command on the pin in progress, a conversion to the tag the pin has, a use the tag does not give, and a
fraction out of its precondition, whatever the tag (42_pin_identity_capability.md sections 2 and 3; decisions D17,
D19; that the refusal of a detect pin comes before the interlock, and the tag after it, is log 12). -/
def Obligations.CapabilityRefusals : Prop :=
  ∀ (s : State) (r : Nat) (p : Pin), s.mayIssue r 1 →
    (∀ i, capPin i = some p → isDetectPin s.cfg p → s.isRefused r i) ∧
    (s.capIdle r p →
      (∀ num den : BitVec 16, den.toNat = 0 ∨ den.toNat < num.toNat → s.isRefused r (.capLedDutyFrac p num den)) ∧
      (s.capOf p = .output → s.isRefused r (.capIntoOutput p)) ∧
      (s.capOf p = .input → s.isRefused r (.capIntoInput p)) ∧
      (s.capOf p = .led → s.isRefused r (.capIntoLed p)) ∧
      (s.capOf p ≠ .output → ∀ l, s.isRefused r (.capOutSet p l)) ∧
      (s.capOf p ≠ .input → s.isRefused r (.capInRead p)) ∧
      (s.capOf p ≠ .led → (∀ d, s.isRefused r (.capLedDuty p d)) ∧ (∀ v, s.isRefused r (.capLedDutyPct p v)) ∧
        ∀ num den, s.isRefused r (.capLedDutyFrac p num den)))

/-- The interlocks: a capability command on a pin that another capability command has in progress waits, and so does a
HEX command while another `HEX_SET_ENABLED` is in progress; waiting, it stays loaded and nothing else changes, however
long its turn (20_memory.md section 7, 42_pin_identity_capability.md section 2; decisions D17, D24; that the refusal
of a detect pin comes first is log 12, that the wait has no exception for a wedged bus is log 23). -/
def Obligations.InterlockedCommandsWait : Prop :=
  ∀ (s : State) (r n k : Nat) (i j : Instr), s.mayIssue r n → k ≠ r → (s.req k).cmd = some j → (s.seq k).started →
    ((∃ p, capPin i = some p ∧ capPin j = some p ∧ isDetectPin s.cfg p = false) ∨
      (isSetEnabled j ∧ ((∃ S, i = .hexUpdate S) ∨ ∃ slot e, i = .hexSetEnabled slot e))) →
    exec i s = .next (s.load r i)

/-! ## Snapshots -/

/-- `SNAP_READ`: one transaction for each chip, and the answer is the six bytes just received, Port0 before Port1,
chips in ascending address; an error ends it with no partial snapshot (43_snapshot.md sections 2 and 3; the order is
decision D21). -/
def Obligations.SnapshotRead : Prop :=
  ∀ (s : State) (r : Nat), s.unhindered r 11 →
    let E := s.cfg.expBus
    let exchange := s.busOps r [(E, 0x58, [.write [0x00, 0x01], .read 2]), (E, 0x59, [.write [0x00, 0x01], .read 2]),
      (E, 0x5A, [.write [0x00, 0x01], .read 2])] []
    s.endsAs r .snapRead exchange (fun rx t => (t, rx)) ∧ (∀ rx s1, exchange = (.ok rx, s1) → rx.length = 6)

/-- `SNAP_PIN_STATE` answers the pin's bit of the snapshot it is given, without a wire transaction, the lock or any
state; a malformed packet is illegal (R204). -/
def Obligations.SnapshotPinState : Prop :=
  (∀ (s : State) (r : Nat) (p : Pin) (S : Snapshot), s.mayIssue r 1 →
    exec (.snapPinState p S) s = .next (s.respond r [0x00, if levelAt S p then 0x01 else 0x00])) ∧
  (∀ p S, encode (.snapPinState p S) = [0x41, pidByte p, S.s0, S.s1, S.s2, S.s3, S.s4, S.s5]) ∧
  malformedIsIllegal 0x41

/-- The polarity of the two consumers: a high button pin is Released and a low one Pressed; a high detect pin is Empty
and a low one Occupied (R215, R235). -/
def Obligations.LevelsAreActiveLow : Prop :=
  ∀ (P : Params) (S : Snapshot) (b : Fin 6),
    (buttonLevel P S b = if levelAt S P.buttonPin[b] then .released else .pressed) ∧
    (slotLevel P S b = if levelAt S P.hexDetectPin[b] then .empty else .occupied)

/-! ## Buttons -/

/-- `BTN_UPDATE`: the answer is the events of the update, in ascending button order; a button has one exactly if none
was observed before or its level differs, with the stored observation as the previous one, and the new observation is
stored; every other button keeps its observation and its old timestamp. The timestamps of the events are the samples
of the host's clock, one reading for all or one for each as the parameter says, and the clock is the one after these
readings. Nothing else changes, and no lock is needed. The record of an event: button, `prev_valid`, `prev_level` and
`now_level` in byte 0, then the two timestamps little-endian (44_buttons.md sections 2 and 4, 30_encoding.md section
4; the order is decision D13, the sampling D12, the record D14; the clock is log 8). -/
def Obligations.ButtonUpdate : Prop :=
  (∀ (s : State) (r : Nat) (S : Snapshot), s.mayIssue r 1 →
    ∃ (events : List ButtonEvent) (btn : Vector (Option Observation) 6),
      let sampled := s.clock.samples s.cfg.tsSampling events.length
      exec (.btnUpdate S) s = .next ({ s with btn := btn, clock := sampled.2 }.respond r
        (0x00 :: BitVec.ofNat 8 events.length :: events.flatMap ButtonEvent.record)) ∧
      events.Pairwise (fun e f => e.button < f.button) ∧
      (events.map fun e => e.now.ts) = sampled.1 ∧
      ∀ b : Fin 6, let l : ButtonLevel := if levelAt S s.cfg.buttonPin[b] then .released else .pressed
        (s.btn[b] = none ∨ (∃ o, s.btn[b] = some o ∧ o.level ≠ l) →
          ∃ ts, { button := b, previous := s.btn[b], now := ⟨l, ts⟩ } ∈ events ∧ btn[b] = some ⟨l, ts⟩) ∧
        ((∃ o, s.btn[b] = some o ∧ o.level = l) → (∀ e ∈ events, e.button ≠ b) ∧ btn[b] = s.btn[b])) ∧
  ∀ e : ButtonEvent, e.record =
    BitVec.ofNat 8 (e.button.val + (if e.previous.isSome then 8 else 0) +
        (if e.previous.map Observation.level = some .pressed then 16 else 0) +
        (if e.now.level = .pressed then 32 else 0)) ::
      (littleEndian ((e.previous.map Observation.ts).getD 0) ++ littleEndian e.now.ts)

/-- `pressed` of an event is that its new state is Pressed, which is bit 5 of byte 0 of its record (R218). -/
def Obligations.PressedAccessor : Prop :=
  ∀ e : ButtonEvent, (e.pressed ↔ e.now.level = .pressed) ∧ (e.record.headD 0).getLsbD 5 = e.pressed

/-- `released` is the opposite of `pressed`; `duration` is there exactly with a previous observation, bit 3 of byte 0
of the record, and is the difference of the timestamps modulo their width (44_buttons.md section 3; decision D12; the
record is decision D14). -/
def Obligations.DurationAccessor : Prop :=
  ∀ e : ButtonEvent, (e.released ↔ e.now.level = .released) ∧ (e.released = !e.pressed) ∧
    (e.duration.isSome ↔ e.previous.isSome) ∧ (e.record.headD 0).getLsbD 3 = e.previous.isSome ∧
    ∀ o, e.previous = some o → e.duration = some (e.now.ts - o.ts)

/-- Timestamps never decrease while the host keeps its promise, in the updates of either unit: from a clock whose
foreseen readings rise from its last one, the events of an update carry rising timestamps not below that last one, and
the clock is again such a one, with its last reading not below any of them, so that the next update of either unit
samples no less (44_buttons.md section 2, 10_state.md section 6; decision D12; log 8). -/
def Obligations.TimestampsNeverDecrease : Prop :=
  ∀ (P : Params) (S : Snapshot) (btn : Vector (Option Observation) 6) (hex : Vector SlotState 6) (c : Clock),
    let ok (c : Clock) : Prop := (c.last :: c.script).Pairwise (fun x y => x.toNat ≤ y.toNat)
    let rising (stamps : List Timestamp) (after : Clock) : Prop :=
      ok after ∧ c.last.toNat ≤ after.last.toNat ∧ stamps.Pairwise (fun x y => x.toNat ≤ y.toNat) ∧
      ∀ t ∈ stamps, c.last.toNat ≤ t.toNat ∧ t.toNat ≤ after.last.toNat
    let buttons := scanButtons P S btn c
    let slots := scanSlots P S hex c
    ok c → rising (buttons.events.map fun e => e.now.ts) buttons.sampler.clock ∧
      rising (slots.events.map SlotEvent.timestamp) slots.sampler.clock

/-! ## Slots -/

/-- `HEX_UPDATE`: the answer is the events of the update, in ascending slot order; a disabled slot reports Disabled
once and then stays silent; another slot reports its level exactly if none is stored or it differs, and stores it. The
timestamps of the events are the samples of the host's clock, one reading for all or one for each as the parameter
says, and the clock is the one after these readings. Nothing else changes, and no lock is needed. The record of an
event: slot and state in byte 0, then the timestamp little-endian (45_hexpansion.md section 2, 44_buttons.md section
2, 30_encoding.md section 4; the order is decision D13, the sampling D12, the record D14; the clock is log 8). -/
def Obligations.SlotUpdate : Prop :=
  (∀ (s : State) (r : Nat) (S : Snapshot), s.mayIssue r 1 → s.hexIdle r →
    ∃ (events : List SlotEvent) (hex : Vector SlotState 6),
      let sampled := s.clock.samples s.cfg.tsSampling events.length
      exec (.hexUpdate S) s = .next ({ s with hex := hex, clock := sampled.2 }.respond r
        (0x00 :: BitVec.ofNat 8 events.length :: events.flatMap SlotEvent.record)) ∧
      events.Pairwise (fun e f => e.slot < f.slot) ∧
      events.map SlotEvent.timestamp = sampled.1 ∧
      ∀ k : Fin 6, let high := levelAt S s.cfg.hexDetectPin[k]
        let reports (x : SlotReport) (y : SlotState) : Prop :=
          (∃ ts, { slot := k, timestamp := ts, state := x } ∈ events) ∧ hex[k] = y
        let silent : Prop := (∀ e ∈ events, e.slot ≠ k) ∧ hex[k] = s.hex[k]
        (s.hex[k] = .disabled false → reports .disabled (.disabled true)) ∧
        (s.hex[k] = .disabled true → silent) ∧
        (s.hex[k] = .untracked ∨ s.hex[k] = .occupied → high → reports .empty .empty) ∧
        (s.hex[k] = .untracked ∨ s.hex[k] = .empty → high = false → reports .occupied .occupied) ∧
        (s.hex[k] = .empty → high → silent) ∧
        (s.hex[k] = .occupied → high = false → silent)) ∧
  ∀ e : SlotEvent, e.record =
    BitVec.ofNat 8 (e.slot.val + 16 * match e.state with | .disabled => 0 | .empty => 1 | .occupied => 2) ::
      littleEndian e.timestamp

/-- `HEX_SET_ENABLED`: enabling makes the detect pin a Gpio input and forgets the slot's level; disabling makes it a
Gpio output driven high and stores Disabled, not yet notified; unconditionally; a failed bus operation leaves slot and
tag as they were (45_hexpansion.md section 3; decisions D17, D23). -/
def Obligations.SlotEnabling : Prop :=
  ∀ (s : State) (r : Nat) (k : Fin 6), s.unhindered r 20 → s.hexIdle r →
    let p := s.cfg.hexDetectPin[k]
    let next (x : Reply × State) (base : Byte) (set : Bool) : Reply × State :=
      match x with
      | (.ok _, s1) => s1.rmw r p base set
      | other => other
    s.endsAs r (.hexSetEnabled k true) (next (s.rmw r p 0x12 true) 0x04 true)
      (fun _ t => ({ t with cap := t.cap.set (pinIndex p) .input, hex := t.hex.set k .untracked }, [])) ∧
    s.endsAs r (.hexSetEnabled k false) (next (next (s.rmw r p 0x12 true) 0x04 false) 0x02 true)
      (fun _ t => ({ t with cap := t.cap.set (pinIndex p) .output, hex := t.hex.set k (.disabled false) }, [])) ∧
    (∀ (base : Byte) (set : Bool) (x : Reply) (s1 : State), s.rmw r p base set = (x, s1) →
      s1.hex = s.hex ∧ s1.cap = s.cap)

/-- A disabled slot that has been reported stays so, and is reported by no update, until a `HEX_SET_ENABLED` for that
slot completes: no step of any other command changes it (45_hexpansion.md sections 2 and 4). -/
def Obligations.DisabledIsReportedOnce : Prop :=
  ∀ (s t : State) (i : Instr) (k : Fin 6), s.hex[k] = .disabled true → exec i s = .next t →
    (∀ e, i ≠ .hexSetEnabled k e) →
    t.hex[k] = .disabled true ∧
    ∀ S, i = .hexUpdate S → ∀ e ∈ (scanSlots s.cfg S s.hex s.clock).events, e.slot ≠ k
end

