-- ==== Sys2Proof/Laws/Memory.lean ====
section
/-! SUPPORT. The canonical form of the register cells: what reading after each operation gives, and that every
operation of the environment keeps the form. -/

namespace Sys2Proof.Machine

/-! ## Cells -/

theorem regKey_lt (c : Fin 3) (g : Byte) : regKey c g < 768 := by
  have := g.isLt
  unfold regKey
  omega

theorem regKey_inj {c c' : Fin 3} {g g' : Byte} : regKey c g = regKey c' g' ↔ c = c' ∧ g = g' := by
  have h := g.isLt
  have h' := g'.isLt
  unfold regKey
  constructor
  · intro e
    have hc : c.val = c'.val := by omega
    exact ⟨Fin.ext hc, BitVec.eq_of_toNat_eq (by omega)⟩
  · rintro ⟨rfl, rfl⟩; rfl

theorem cellRead_none {m : List Host.Cell} {a : Nat} (h : ∀ x ∈ m, x.1 ≠ a) : cellRead m a = none := by
  induction m with
  | nil => rfl
  | cons x rest ih =>
    rw [cellRead, if_neg fun e => h x (by simp) e.symm]
    exact ih fun y hy => h y (by simp [hy])

theorem cellRead_cellWrite (m : List Host.Cell) (a b : Nat) (v : Byte) :
    cellRead (cellWrite m a v) b = if b = a then some v else cellRead m b := by
  induction m with
  | nil => simp [cellWrite, cellRead]
  | cons x rest ih =>
    obtain ⟨k, w⟩ := x
    simp only [cellWrite]
    split
    · simp only [cellRead]
    · split
      · subst_vars; simp only [cellRead]; split <;> rfl
      · simp only [cellRead, ih]
        split
        · subst_vars; rw [if_neg (by omega)]
        · rfl

theorem cellRead_filter (m : List Host.Cell) (keep : Nat → Bool) (b : Nat) :
    cellRead (m.filter fun x => keep x.1) b = if keep b then cellRead m b else none := by
  induction m with
  | nil => simp [cellRead]
  | cons x rest ih =>
    obtain ⟨k, w⟩ := x
    by_cases hk : keep k
    · rw [List.filter_cons_of_pos (by simpa using hk)]
      simp only [cellRead, ih]
      split
      · subst_vars; simp [hk]
      · rfl
    · rw [List.filter_cons_of_neg (by simpa using hk), ih]
      split
      · rename_i hb
        rw [cellRead, if_neg]
        rintro rfl
        exact hk hb
      · rfl

theorem mem_cellWrite {m : List Host.Cell} {a : Nat} {v : Byte} {x : Host.Cell} (h : x ∈ cellWrite m a v) :
    x = (a, v) ∨ x ∈ m := by
  induction m with
  | nil => simpa [cellWrite] using h
  | cons y rest ih =>
    obtain ⟨k, w⟩ := y
    simp only [cellWrite] at h
    split at h
    · simpa using h
    · split at h
      · rcases List.mem_cons.1 h with h | h
        · exact .inl h
        · exact .inr (by simp [h])
      · rcases List.mem_cons.1 h with h | h
        · exact .inr (by simp [h])
        · rcases ih h with h | h
          · exact .inl h
          · exact .inr (by simp [h])

theorem cellWrite_sorted {m : List Host.Cell} (h : m.Pairwise (fun x y => x.1 < y.1)) (a : Nat) (v : Byte) :
    (cellWrite m a v).Pairwise (fun x y => x.1 < y.1) := by
  induction m with
  | nil => simp [cellWrite]
  | cons y rest ih =>
    obtain ⟨k, w⟩ := y
    rw [List.pairwise_cons] at h
    simp only [cellWrite]
    split
    · rename_i hlt
      refine List.pairwise_cons.2 ⟨?_, List.pairwise_cons.2 h⟩
      intro x hx
      rcases List.mem_cons.1 hx with rfl | hx
      · exact hlt
      · exact lt_trans hlt (h.1 x hx)
    · split
      · subst_vars; exact List.pairwise_cons.2 h
      · refine List.pairwise_cons.2 ⟨?_, ih h.2⟩
        intro x hx
        rcases mem_cellWrite hx with rfl | hx
        · show k < a; omega
        · exact h.1 x hx

/-- A cell may be written with a byte that its key does not read as without it. -/
theorem cellWrite_wf {fill : Vector Fill 3} {m : List Host.Cell} (h : Memory.wf fill m) {a : Nat} {v : Byte}
    (ha : a < 768) (hi : 2 ≤ a % 256) (hv : v ≠ fillByte fill a) : Memory.wf fill (cellWrite m a v) := by
  refine ⟨cellWrite_sorted h.1 a v, fun x hx => ?_⟩
  rcases mem_cellWrite hx with rfl | hx
  · exact ⟨ha, hi, hv⟩
  · exact h.2 x hx

theorem filter_wf {fill : Vector Fill 3} {m : List Host.Cell} (h : Memory.wf fill m) (keep : Host.Cell → Bool) :
    Memory.wf fill (m.filter keep) :=
  ⟨h.1.filter _, fun x hx => h.2 x (List.mem_of_mem_filter hx)⟩

theorem cellErase_wf {fill : Vector Fill 3} {m : List Host.Cell} (h : Memory.wf fill m) (a : Nat) :
    Memory.wf fill (cellErase m a) := filter_wf h _

/-! ## Fills -/

theorem regKey_chip (c : Fin 3) (g : Byte) : regKey c g / 256 = c.val := by
  have := g.isLt; unfold regKey; omega

theorem regKey_offset (c : Fin 3) (g : Byte) : regKey c g % 256 = g.toNat := by
  have := g.isLt; unfold regKey; omega

/-- A chip's new fill is what its keys read as, and no other chip's. -/
theorem fillByte_set (fill : Vector Fill 3) (c : Fin 3) (n k : Nat) :
    fillByte (fill.set c.val (.draw n) c.isLt) k =
      if k / 256 = c.val then Config.registerDraw n k else fillByte fill k := by
  have hl : c.val < fill.toList.length := by simp
  unfold fillByte
  rw [Vector.toList_set]
  simp only [List.getD_eq_getElem?_getD, List.getElem?_set]
  by_cases h : k / 256 = c.val
  · simp [h]
  · simp [h, Ne.symm h]

theorem isInputReg_iff (g : Byte) : isInputReg g = true ↔ g = 0x00 ∨ g = 0x01 := by simp [isInputReg]

theorem not_isInputReg {g : Byte} (h : isInputReg g = false) : 2 ≤ g.toNat := by
  revert g; decide

/-! ## Registers -/

theorem Environment.reg_input (e : Environment) (c : Fin 3) (port : Fin 2) :
    e.reg c (BitVec.ofNat 8 port.val) = e.pins[pinsIndex c port] := by
  match port with
  | 0 => rfl
  | 1 => rfl

/-- A register that is no INPUT holds its cell's byte, or its chip's fill. -/
theorem Environment.reg_stored (e : Environment) (c : Fin 3) {g : Byte} (h : isInputReg g = false) :
    e.reg c g = (cellRead e.regs (regKey c g)).getD (fillByte e.fill (regKey c g)) := by
  have : ¬ (g = 0x00 ∨ g = 0x01) := fun hg => by rw [(isInputReg_iff g).2 hg] at h; cases h
  unfold Environment.reg
  rw [if_neg fun hg => this (.inl hg), if_neg fun hg => this (.inr hg)]

/-- What a register holds is decided by the pins, the cells and the fills. -/
theorem Environment.reg_congr {e e' : Environment} (hp : e'.pins = e.pins) (hr : e'.regs = e.regs)
    (hf : e'.fill = e.fill) (c : Fin 3) (g : Byte) : e'.reg c g = e.reg c g := by
  simp only [Environment.reg, hp, hr, hf]

@[simp] theorem Environment.setReg_pins (e : Environment) (c : Fin 3) (g v : Byte) : (e.setReg c g v).pins = e.pins := by
  unfold Environment.setReg; repeat' split
  all_goals rfl

@[simp] theorem Environment.setReg_fill (e : Environment) (c : Fin 3) (g v : Byte) : (e.setReg c g v).fill = e.fill := by
  unfold Environment.setReg; repeat' split
  all_goals rfl

@[simp] theorem Environment.setReg_law (e : Environment) (c : Fin 3) (g v : Byte) : (e.setReg c g v).law = e.law := by
  unfold Environment.setReg; repeat' split
  all_goals rfl

@[simp] theorem Environment.setReg_absent (e : Environment) (c : Fin 3) (g v : Byte) :
    (e.setReg c g v).absent = e.absent := by
  unfold Environment.setReg; repeat' split
  all_goals rfl

@[simp] theorem Environment.setReg_muxsel (e : Environment) (c : Fin 3) (g v : Byte) :
    (e.setReg c g v).muxsel = e.muxsel := by
  unfold Environment.setReg; repeat' split
  all_goals rfl

@[simp] theorem Environment.setReg_pointer (e : Environment) (c : Fin 3) (g v : Byte) :
    (e.setReg c g v).pointer = e.pointer := by
  unfold Environment.setReg; repeat' split
  all_goals rfl

/-- Reading a register after a store: the byte stored there, but for INPUT, which stores nothing (R36). -/
theorem Environment.reg_setReg (e : Environment) (c c' : Fin 3) (g g' v : Byte) :
    (e.setReg c g v).reg c' g' = if c' = c ∧ g' = g ∧ isInputReg g = false then v else e.reg c' g' := by
  by_cases hi : isInputReg g = true
  · have : e.setReg c g v = e := by unfold Environment.setReg; rw [if_pos hi]
    simp [this, hi]
  rw [Bool.not_eq_true] at hi
  by_cases hi' : isInputReg g' = true
  · have hne : g' ≠ g := by rintro rfl; rw [hi] at hi'; cases hi'
    rw [if_neg (fun h => hne h.2.1)]
    rcases (isInputReg_iff g').1 hi' with rfl | rfl <;> simp [Environment.reg]
  rw [Bool.not_eq_true] at hi'
  rw [Environment.reg_stored _ _ hi', Environment.reg_stored _ _ hi', Environment.setReg_fill]
  have hk : regKey c' g' = regKey c g ↔ c' = c ∧ g' = g ∧ isInputReg g = false := by simp [regKey_inj, hi]
  unfold Environment.setReg
  rw [if_neg (by simp [hi])]
  split
  · simp only [cellErase, cellRead_filter _ (fun k => k != regKey c g), bne_iff_ne, ne_eq, ite_not]
    by_cases h : regKey c' g' = regKey c g
    · rw [if_pos h, if_pos (hk.1 h), Option.getD_none, h]; exact Eq.symm ‹_›
    · rw [if_neg h, if_neg (fun x => h (hk.2 x))]
  · simp only [cellRead_cellWrite]
    by_cases h : regKey c' g' = regKey c g
    · rw [if_pos h, if_pos (hk.1 h), Option.getD_some]
    · rw [if_neg h, if_neg (fun x => h (hk.2 x))]

/-- Reading after a register has become unspecified: its own byte is a draw, every other is as before (U6). -/
theorem Environment.reg_forgetReg (e : Environment) (c c' : Fin 3) (g g' : Byte) :
    (e.forgetReg c g).reg c' g' =
      if c' = c ∧ g' = g ∧ isInputReg g = false then Config.registerDraw e.drawNumber (regKey c g)
      else e.reg c' g' := Environment.reg_setReg _ _ _ _ _ _

/-- Reading after a chip has become unspecified: its registers but INPUT are draws (U8). -/
theorem Environment.reg_forgetChip (e : Environment) (c c' : Fin 3) (g' : Byte) :
    (e.forgetChip c).reg c' g' =
      if c' = c ∧ isInputReg g' = false then Config.registerDraw e.drawNumber (regKey c' g') else e.reg c' g' := by
  by_cases hi' : isInputReg g' = true
  · rw [if_neg (by simp [hi'])]
    rcases (isInputReg_iff g').1 hi' with rfl | rfl <;> rfl
  rw [Bool.not_eq_true] at hi'
  rw [Environment.reg_stored _ _ hi', Environment.reg_stored _ _ hi']
  simp only [Environment.forgetChip, cellRead_filter _ (fun k => k / 256 != c.val), fillByte_set, regKey_chip,
    bne_iff_ne, ne_eq, ite_not, ← Fin.ext_iff]
  by_cases h : c' = c <;> simp [h, hi']

@[simp] theorem Environment.reg_movePointer (e : Environment) (c c' : Fin 3) (g : Byte) :
    (e.movePointer c).reg c' g = e.reg c' g := rfl

/-! ## The canonical form is kept -/

theorem Environment.setReg_wf {e : Environment} (h : Memory.wf e.fill e.regs) (c : Fin 3) (g v : Byte) :
    Memory.wf (e.setReg c g v).fill (e.setReg c g v).regs := by
  rw [Environment.setReg_fill]
  unfold Environment.setReg
  split
  · exact h
  · rename_i hi
    split
    · exact cellErase_wf h _
    · rename_i hv
      exact cellWrite_wf h (regKey_lt c g)
        (by rw [regKey_offset]; exact not_isInputReg (Bool.not_eq_true _ ▸ hi)) hv

theorem Environment.forgetReg_wf {e : Environment} (h : Memory.wf e.fill e.regs) (c : Fin 3) (g : Byte) :
    Memory.wf (e.forgetReg c g).fill (e.forgetReg c g).regs := Environment.setReg_wf h _ _ _

theorem Environment.forgetChip_wf {e : Environment} (h : Memory.wf e.fill e.regs) (c : Fin 3) :
    Memory.wf (e.forgetChip c).fill (e.forgetChip c).regs := by
  refine ⟨h.1.filter _, fun x hx => ?_⟩
  obtain ⟨hx, hk⟩ := List.mem_filter.1 hx
  obtain ⟨h1, h2, h3⟩ := h.2 x hx
  refine ⟨h1, h2, ?_⟩
  show x.2 ≠ fillByte (e.fill.set c.val (.draw e.drawNumber) c.isLt) x.1
  rw [fillByte_set, if_neg (by simpa using hk)]
  exact h3

/-! ## The environment -/

theorem Environment.referenceWrite_wf {e : Environment} (h : Memory.wf e.fill e.regs) (c : Fin 3) (g v : Byte) :
    Memory.wf (e.referenceWrite c g v).fill (e.referenceWrite c g v).regs := by
  unfold Environment.referenceWrite
  split
  · exact h
  · exact Environment.setReg_wf h c g v

theorem Environment.referenceAnswer_wf {e : Environment} (h : Memory.wf e.fill e.regs) (expBus : BusHandle) (a : Addr)
    (ops : List BusOp) :
    Memory.wf (e.referenceAnswer expBus a ops).2.fill (e.referenceAnswer expBus a ops).2.regs := by
  unfold Environment.referenceAnswer
  repeat' split
  all_goals first | exact h | exact Environment.referenceWrite_wf h _ _ _

/-- Everything the record of a chip's registers can become: what it was, a byte stored, a register or the whole chip
unspecified (R35; log 5). -/
theorem Environment.recordRegs_cases (e : Environment) (expBus : BusHandle) (c : Fin 3) (ops : List BusOp)
    (answer : Reply) :
    e.recordRegs expBus c ops answer = e ∨
    (∃ g v, ops = [.write [g, v]] ∧ isStorageReg g = true ∧ e.recordRegs expBus c ops answer = e.setReg c g v) ∨
    (∃ g v, ops = [.write [g, v]] ∧ isStorageReg g = true ∧ e.recordRegs expBus c ops answer = e.forgetReg c g) ∨
    e.recordRegs expBus c ops answer = e.forgetChip c := by
  unfold Environment.recordRegs
  split
  · rename_i g v
    split
    · rename_i hs
      split
      · exact .inr (.inl ⟨g, v, rfl, hs, rfl⟩)
      · exact .inr (.inr (.inl ⟨g, v, rfl, hs, rfl⟩))
    · exact .inr (.inr (.inr rfl))
  · exact .inl rfl
  · split
    · exact .inl rfl
    · exact .inr (.inr (.inr rfl))
  · split
    · exact .inr (.inr (.inr rfl))
    · exact .inl rfl

theorem Environment.recordRegs_wf {e : Environment} (h : Memory.wf e.fill e.regs) (expBus : BusHandle) (c : Fin 3)
    (ops : List BusOp) (answer : Reply) :
    Memory.wf (e.recordRegs expBus c ops answer).fill (e.recordRegs expBus c ops answer).regs := by
  rcases e.recordRegs_cases expBus c ops answer with hr | ⟨g, v, -, -, hr⟩ | ⟨g, v, -, -, hr⟩ | hr <;> rw [hr]
  · exact h
  · exact Environment.setReg_wf h _ _ _
  · exact Environment.forgetReg_wf h _ _
  · exact Environment.forgetChip_wf h _

theorem Environment.recordChip_wf {e : Environment} (h : Memory.wf e.fill e.regs) (expBus : BusHandle) (c : Fin 3)
    (ops : List BusOp) (answer : Reply) :
    Memory.wf (e.recordChip expBus c ops answer).fill (e.recordChip expBus c ops answer).regs := by
  unfold Environment.recordChip
  split
  · exact h
  · exact Environment.recordRegs_wf h _ _ _ _

/-- What a transaction to the multiplexer's address leaves of everything but `MUXSEL`. -/
theorem Environment.recordMux_keeps (e : Environment) (ops : List BusOp) (answer : Reply) :
    (e.recordMux ops answer).regs = e.regs ∧ (e.recordMux ops answer).fill = e.fill ∧
    (e.recordMux ops answer).pins = e.pins ∧ (e.recordMux ops answer).absent = e.absent ∧
    (e.recordMux ops answer).law = e.law ∧ (e.recordMux ops answer).pointer = e.pointer := by
  unfold Environment.recordMux
  repeat' split
  all_goals simp

theorem Environment.record_wf {e : Environment} (h : Memory.wf e.fill e.regs) (expBus : BusHandle) (a : Addr)
    (ops : List BusOp) (answer : Reply) :
    Memory.wf (e.record expBus a ops answer).fill (e.record expBus a ops answer).regs := by
  unfold Environment.record
  split
  · rw [(e.recordMux_keeps ops answer).1, (e.recordMux_keeps ops answer).2.1]; exact h
  · split
    · exact h
    · exact Environment.recordChip_wf h _ _ _ _

/-- Whatever the environment answers, its register cells keep the canonical form. -/
theorem Environment.answer_wf {e : Environment} (h : Memory.wf e.fill e.regs) (expBus : BusHandle) (a : Addr)
    (ops : List BusOp) : Memory.wf (e.answer expBus a ops).2.fill (e.answer expBus a ops).2.regs := by
  unfold Environment.answer
  split
  · exact Environment.record_wf h expBus a ops _
  · exact Environment.referenceAnswer_wf h expBus a ops

theorem Environment.drift_wf {e : Environment} (h : Memory.wf e.fill e.regs) (d : Drift) :
    Memory.wf (e.drift d).fill (e.drift d).regs := by
  cases d with
  | muxsel b => exact h
  | reg c g v => exact Environment.setReg_wf h c g v
  | pointer c v => exact h
  | pins c port v => exact h

theorem Environment.powerOn_wf : Memory.wf Environment.powerOn.fill Environment.powerOn.regs :=
  ⟨List.Pairwise.nil, by simp [Environment.powerOn]⟩

theorem Environment.reference_wf : Memory.wf Environment.reference.fill Environment.reference.regs :=
  ⟨List.Pairwise.nil, by simp [Environment.reference]⟩

/-- At power-on every register but INPUT holds a draw (R48, R291, U10). -/
theorem Environment.powerOn_reg (c : Fin 3) {g : Byte} (h : isInputReg g = false) :
    Environment.powerOn.reg c g = Config.registerDraw 0 (regKey c g) := by
  rw [Environment.reg_stored _ _ h]
  match c with
  | 0 | 1 | 2 => simp [Environment.powerOn, cellRead, fillByte, regKey_chip, Vector.toList_replicate]

/-! ## The length of an answer -/

theorem deliver_length (draw n : Nat) (bytes : List Byte) : (deliver draw n bytes).length = n := by simp [deliver]

/-- An acknowledged transaction delivers exactly the bytes its reads ask for (R60). -/
theorem Environment.answer_length {e : Environment} {expBus : BusHandle} {a : Addr} {ops : List BusOp}
    {rx : List Byte} (h : (e.answer expBus a ops).1 = .ok rx) : rx.length = readLength ops := by
  unfold Environment.answer at h
  split at h
  · simp only [Environment.generalAnswer, Environment.nextReply] at h
    split at h
    · injection h with h; subst h; exact deliver_length _ _ _
    · cases h
    · cases h
  · unfold Environment.referenceAnswer at h
    repeat' split at h
    all_goals
      cases h <;> simp_all [readLength]

end Sys2Proof.Machine
end

