-- ==== Sys2Proof/Laws/State.lean ====
section
/-! SUPPORT. What each update of State leaves in each field: one lemma per field and update, so that no later proof
unfolds a record update. -/

namespace Sys2Proof.Machine


/-! ## `setReq` -/

@[simp] theorem State.setReq_cfg (s : State) (r : Nat) (q : Requester) : (s.setReq r q).cfg = s.cfg := rfl
@[simp] theorem State.setReq_lock (s : State) (r : Nat) (q : Requester) : (s.setReq r q).lock = s.lock := rfl
@[simp] theorem State.setReq_wait (s : State) (r : Nat) (q : Requester) : (s.setReq r q).wait = s.wait := rfl
@[simp] theorem State.setReq_reqs (s : State) (r : Nat) (q : Requester) : (s.setReq r q).reqs = s.reqs.set r q := rfl
@[simp] theorem State.setReq_btn (s : State) (r : Nat) (q : Requester) : (s.setReq r q).btn = s.btn := rfl
@[simp] theorem State.setReq_hex (s : State) (r : Nat) (q : Requester) : (s.setReq r q).hex = s.hex := rfl
@[simp] theorem State.setReq_cap (s : State) (r : Nat) (q : Requester) : (s.setReq r q).cap = s.cap := rfl
@[simp] theorem State.setReq_env (s : State) (r : Nat) (q : Requester) : (s.setReq r q).env = s.env := rfl
@[simp] theorem State.setReq_clock (s : State) (r : Nat) (q : Requester) : (s.setReq r q).clock = s.clock := rfl
@[simp] theorem State.setReq_turn (s : State) (r : Nat) (q : Requester) : (s.setReq r q).turn = s.turn := rfl
@[simp] theorem State.setReq_agenda (s : State) (r : Nat) (q : Requester) : (s.setReq r q).agenda = s.agenda := rfl
@[simp] theorem State.setReq_wire (s : State) (r : Nat) (q : Requester) : (s.setReq r q).wire = s.wire := rfl
@[simp] theorem State.setReq_responses (s : State) (r : Nat) (q : Requester) : (s.setReq r q).responses = s.responses := rfl

/-! ## `setSeq` -/

@[simp] theorem State.setSeq_cfg (s : State) (r : Nat) (q : Seq) : (s.setSeq r q).cfg = s.cfg := rfl
@[simp] theorem State.setSeq_lock (s : State) (r : Nat) (q : Seq) : (s.setSeq r q).lock = s.lock := rfl
@[simp] theorem State.setSeq_wait (s : State) (r : Nat) (q : Seq) : (s.setSeq r q).wait = s.wait := rfl
@[simp] theorem State.setSeq_btn (s : State) (r : Nat) (q : Seq) : (s.setSeq r q).btn = s.btn := rfl
@[simp] theorem State.setSeq_hex (s : State) (r : Nat) (q : Seq) : (s.setSeq r q).hex = s.hex := rfl
@[simp] theorem State.setSeq_cap (s : State) (r : Nat) (q : Seq) : (s.setSeq r q).cap = s.cap := rfl
@[simp] theorem State.setSeq_env (s : State) (r : Nat) (q : Seq) : (s.setSeq r q).env = s.env := rfl
@[simp] theorem State.setSeq_clock (s : State) (r : Nat) (q : Seq) : (s.setSeq r q).clock = s.clock := rfl
@[simp] theorem State.setSeq_turn (s : State) (r : Nat) (q : Seq) : (s.setSeq r q).turn = s.turn := rfl
@[simp] theorem State.setSeq_agenda (s : State) (r : Nat) (q : Seq) : (s.setSeq r q).agenda = s.agenda := rfl
@[simp] theorem State.setSeq_wire (s : State) (r : Nat) (q : Seq) : (s.setSeq r q).wire = s.wire := rfl
@[simp] theorem State.setSeq_responses (s : State) (r : Nat) (q : Seq) : (s.setSeq r q).responses = s.responses := rfl

/-! ## `load` -/

@[simp] theorem State.load_cfg (s : State) (r : Nat) (i : Instr) : (s.load r i).cfg = s.cfg := rfl
@[simp] theorem State.load_lock (s : State) (r : Nat) (i : Instr) : (s.load r i).lock = s.lock := rfl
@[simp] theorem State.load_wait (s : State) (r : Nat) (i : Instr) : (s.load r i).wait = s.wait := rfl
@[simp] theorem State.load_btn (s : State) (r : Nat) (i : Instr) : (s.load r i).btn = s.btn := rfl
@[simp] theorem State.load_hex (s : State) (r : Nat) (i : Instr) : (s.load r i).hex = s.hex := rfl
@[simp] theorem State.load_cap (s : State) (r : Nat) (i : Instr) : (s.load r i).cap = s.cap := rfl
@[simp] theorem State.load_env (s : State) (r : Nat) (i : Instr) : (s.load r i).env = s.env := rfl
@[simp] theorem State.load_clock (s : State) (r : Nat) (i : Instr) : (s.load r i).clock = s.clock := rfl
@[simp] theorem State.load_turn (s : State) (r : Nat) (i : Instr) : (s.load r i).turn = s.turn := rfl
@[simp] theorem State.load_agenda (s : State) (r : Nat) (i : Instr) : (s.load r i).agenda = s.agenda := rfl
@[simp] theorem State.load_wire (s : State) (r : Nat) (i : Instr) : (s.load r i).wire = s.wire := rfl
@[simp] theorem State.load_responses (s : State) (r : Nat) (i : Instr) : (s.load r i).responses = s.responses := rfl

/-! ## `respond` -/

@[simp] theorem State.respond_cfg (s : State) (r : Nat) (bytes : List Byte) : (s.respond r bytes).cfg = s.cfg := rfl
@[simp] theorem State.respond_lock (s : State) (r : Nat) (bytes : List Byte) : (s.respond r bytes).lock = s.lock := rfl
@[simp] theorem State.respond_wait (s : State) (r : Nat) (bytes : List Byte) : (s.respond r bytes).wait = s.wait := rfl
@[simp] theorem State.respond_btn (s : State) (r : Nat) (bytes : List Byte) : (s.respond r bytes).btn = s.btn := rfl
@[simp] theorem State.respond_hex (s : State) (r : Nat) (bytes : List Byte) : (s.respond r bytes).hex = s.hex := rfl
@[simp] theorem State.respond_cap (s : State) (r : Nat) (bytes : List Byte) : (s.respond r bytes).cap = s.cap := rfl
@[simp] theorem State.respond_env (s : State) (r : Nat) (bytes : List Byte) : (s.respond r bytes).env = s.env := rfl
@[simp] theorem State.respond_clock (s : State) (r : Nat) (bytes : List Byte) : (s.respond r bytes).clock = s.clock := rfl
@[simp] theorem State.respond_turn (s : State) (r : Nat) (bytes : List Byte) : (s.respond r bytes).turn = s.turn := rfl
@[simp] theorem State.respond_agenda (s : State) (r : Nat) (bytes : List Byte) : (s.respond r bytes).agenda = s.agenda := rfl
@[simp] theorem State.respond_wire (s : State) (r : Nat) (bytes : List Byte) : (s.respond r bytes).wire = s.wire := rfl
@[simp] theorem State.respond_responses (s : State) (r : Nat) (bytes : List Byte) : (s.respond r bytes).responses = s.responses ++ [(r, bytes)] := rfl

/-! ## `answerIllegal` -/

@[simp] theorem State.answerIllegal_cfg (s : State) (r : Nat) : (s.answerIllegal r).cfg = s.cfg := rfl
@[simp] theorem State.answerIllegal_lock (s : State) (r : Nat) : (s.answerIllegal r).lock = s.lock := rfl
@[simp] theorem State.answerIllegal_wait (s : State) (r : Nat) : (s.answerIllegal r).wait = s.wait := rfl
@[simp] theorem State.answerIllegal_btn (s : State) (r : Nat) : (s.answerIllegal r).btn = s.btn := rfl
@[simp] theorem State.answerIllegal_hex (s : State) (r : Nat) : (s.answerIllegal r).hex = s.hex := rfl
@[simp] theorem State.answerIllegal_cap (s : State) (r : Nat) : (s.answerIllegal r).cap = s.cap := rfl
@[simp] theorem State.answerIllegal_env (s : State) (r : Nat) : (s.answerIllegal r).env = s.env := rfl
@[simp] theorem State.answerIllegal_clock (s : State) (r : Nat) : (s.answerIllegal r).clock = s.clock := rfl
@[simp] theorem State.answerIllegal_turn (s : State) (r : Nat) : (s.answerIllegal r).turn = s.turn := rfl
@[simp] theorem State.answerIllegal_agenda (s : State) (r : Nat) : (s.answerIllegal r).agenda = s.agenda := rfl
@[simp] theorem State.answerIllegal_wire (s : State) (r : Nat) : (s.answerIllegal r).wire = s.wire := rfl
@[simp] theorem State.answerIllegal_responses (s : State) (r : Nat) : (s.answerIllegal r).responses = s.responses ++ [(r, [statusIllegal])] := rfl

/-! ## `hang` -/

@[simp] theorem State.hang_cfg (s : State) (r : Nat) : (s.hang r).cfg = s.cfg := rfl
@[simp] theorem State.hang_lock (s : State) (r : Nat) : (s.hang r).lock = s.lock := rfl
@[simp] theorem State.hang_wait (s : State) (r : Nat) : (s.hang r).wait = s.wait := rfl
@[simp] theorem State.hang_btn (s : State) (r : Nat) : (s.hang r).btn = s.btn := rfl
@[simp] theorem State.hang_hex (s : State) (r : Nat) : (s.hang r).hex = s.hex := rfl
@[simp] theorem State.hang_cap (s : State) (r : Nat) : (s.hang r).cap = s.cap := rfl
@[simp] theorem State.hang_env (s : State) (r : Nat) : (s.hang r).env = s.env := rfl
@[simp] theorem State.hang_clock (s : State) (r : Nat) : (s.hang r).clock = s.clock := rfl
@[simp] theorem State.hang_turn (s : State) (r : Nat) : (s.hang r).turn = s.turn := rfl
@[simp] theorem State.hang_agenda (s : State) (r : Nat) : (s.hang r).agenda = s.agenda := rfl
@[simp] theorem State.hang_wire (s : State) (r : Nat) : (s.hang r).wire = s.wire := rfl
@[simp] theorem State.hang_responses (s : State) (r : Nat) : (s.hang r).responses = s.responses := rfl

/-! ## `setTmp` -/

@[simp] theorem State.setTmp_cfg (s : State) (r : Nat) (v : Byte) : (s.setTmp r v).cfg = s.cfg := rfl
@[simp] theorem State.setTmp_lock (s : State) (r : Nat) (v : Byte) : (s.setTmp r v).lock = s.lock := rfl
@[simp] theorem State.setTmp_wait (s : State) (r : Nat) (v : Byte) : (s.setTmp r v).wait = s.wait := rfl
@[simp] theorem State.setTmp_btn (s : State) (r : Nat) (v : Byte) : (s.setTmp r v).btn = s.btn := rfl
@[simp] theorem State.setTmp_hex (s : State) (r : Nat) (v : Byte) : (s.setTmp r v).hex = s.hex := rfl
@[simp] theorem State.setTmp_cap (s : State) (r : Nat) (v : Byte) : (s.setTmp r v).cap = s.cap := rfl
@[simp] theorem State.setTmp_env (s : State) (r : Nat) (v : Byte) : (s.setTmp r v).env = s.env := rfl
@[simp] theorem State.setTmp_clock (s : State) (r : Nat) (v : Byte) : (s.setTmp r v).clock = s.clock := rfl
@[simp] theorem State.setTmp_turn (s : State) (r : Nat) (v : Byte) : (s.setTmp r v).turn = s.turn := rfl
@[simp] theorem State.setTmp_agenda (s : State) (r : Nat) (v : Byte) : (s.setTmp r v).agenda = s.agenda := rfl
@[simp] theorem State.setTmp_wire (s : State) (r : Nat) (v : Byte) : (s.setTmp r v).wire = s.wire := rfl
@[simp] theorem State.setTmp_responses (s : State) (r : Nat) (v : Byte) : (s.setTmp r v).responses = s.responses := rfl

/-! ## `setCap` -/

@[simp] theorem State.setCap_cfg (s : State) (p : Pin) (t : CapTag) : (s.setCap p t).cfg = s.cfg := rfl
@[simp] theorem State.setCap_lock (s : State) (p : Pin) (t : CapTag) : (s.setCap p t).lock = s.lock := rfl
@[simp] theorem State.setCap_wait (s : State) (p : Pin) (t : CapTag) : (s.setCap p t).wait = s.wait := rfl
@[simp] theorem State.setCap_reqs (s : State) (p : Pin) (t : CapTag) : (s.setCap p t).reqs = s.reqs := rfl
@[simp] theorem State.setCap_btn (s : State) (p : Pin) (t : CapTag) : (s.setCap p t).btn = s.btn := rfl
@[simp] theorem State.setCap_hex (s : State) (p : Pin) (t : CapTag) : (s.setCap p t).hex = s.hex := rfl
@[simp] theorem State.setCap_cap (s : State) (p : Pin) (t : CapTag) : (s.setCap p t).cap = s.cap.set (pinIndex p).val t (pinIndex p).isLt := rfl
@[simp] theorem State.setCap_env (s : State) (p : Pin) (t : CapTag) : (s.setCap p t).env = s.env := rfl
@[simp] theorem State.setCap_clock (s : State) (p : Pin) (t : CapTag) : (s.setCap p t).clock = s.clock := rfl
@[simp] theorem State.setCap_turn (s : State) (p : Pin) (t : CapTag) : (s.setCap p t).turn = s.turn := rfl
@[simp] theorem State.setCap_agenda (s : State) (p : Pin) (t : CapTag) : (s.setCap p t).agenda = s.agenda := rfl
@[simp] theorem State.setCap_wire (s : State) (p : Pin) (t : CapTag) : (s.setCap p t).wire = s.wire := rfl
@[simp] theorem State.setCap_responses (s : State) (p : Pin) (t : CapTag) : (s.setCap p t).responses = s.responses := rfl

/-! ## `giveTurn` -/

@[simp] theorem State.giveTurn_cfg (s : State) (r n : Nat) : (s.giveTurn r n).cfg = s.cfg := rfl
@[simp] theorem State.giveTurn_lock (s : State) (r n : Nat) : (s.giveTurn r n).lock = s.lock := rfl
@[simp] theorem State.giveTurn_wait (s : State) (r n : Nat) : (s.giveTurn r n).wait = s.wait := rfl
@[simp] theorem State.giveTurn_reqs (s : State) (r n : Nat) : (s.giveTurn r n).reqs = s.reqs := rfl
@[simp] theorem State.giveTurn_btn (s : State) (r n : Nat) : (s.giveTurn r n).btn = s.btn := rfl
@[simp] theorem State.giveTurn_hex (s : State) (r n : Nat) : (s.giveTurn r n).hex = s.hex := rfl
@[simp] theorem State.giveTurn_cap (s : State) (r n : Nat) : (s.giveTurn r n).cap = s.cap := rfl
@[simp] theorem State.giveTurn_env (s : State) (r n : Nat) : (s.giveTurn r n).env = s.env := rfl
@[simp] theorem State.giveTurn_clock (s : State) (r n : Nat) : (s.giveTurn r n).clock = s.clock := rfl
@[simp] theorem State.giveTurn_turn (s : State) (r n : Nat) : (s.giveTurn r n).turn = { requester := r, budget := n } := rfl
@[simp] theorem State.giveTurn_agenda (s : State) (r n : Nat) : (s.giveTurn r n).agenda = s.agenda := rfl
@[simp] theorem State.giveTurn_wire (s : State) (r n : Nat) : (s.giveTurn r n).wire = s.wire := rfl
@[simp] theorem State.giveTurn_responses (s : State) (r n : Nat) : (s.giveTurn r n).responses = s.responses := rfl

/-! ## `phys` -/

@[simp] theorem State.phys_cfg (s : State) (r : Nat) (h : BusHandle) (role : WireRole) (a : Addr) (ops : List BusOp) :
    (s.phys r h role a ops).2.cfg = s.cfg := rfl
@[simp] theorem State.phys_lock (s : State) (r : Nat) (h : BusHandle) (role : WireRole) (a : Addr) (ops : List BusOp) :
    (s.phys r h role a ops).2.lock = s.lock := rfl
@[simp] theorem State.phys_wait (s : State) (r : Nat) (h : BusHandle) (role : WireRole) (a : Addr) (ops : List BusOp) :
    (s.phys r h role a ops).2.wait = s.wait := rfl
@[simp] theorem State.phys_reqs (s : State) (r : Nat) (h : BusHandle) (role : WireRole) (a : Addr) (ops : List BusOp) :
    (s.phys r h role a ops).2.reqs = s.reqs := rfl
@[simp] theorem State.phys_btn (s : State) (r : Nat) (h : BusHandle) (role : WireRole) (a : Addr) (ops : List BusOp) :
    (s.phys r h role a ops).2.btn = s.btn := rfl
@[simp] theorem State.phys_hex (s : State) (r : Nat) (h : BusHandle) (role : WireRole) (a : Addr) (ops : List BusOp) :
    (s.phys r h role a ops).2.hex = s.hex := rfl
@[simp] theorem State.phys_cap (s : State) (r : Nat) (h : BusHandle) (role : WireRole) (a : Addr) (ops : List BusOp) :
    (s.phys r h role a ops).2.cap = s.cap := rfl
@[simp] theorem State.phys_clock (s : State) (r : Nat) (h : BusHandle) (role : WireRole) (a : Addr) (ops : List BusOp) :
    (s.phys r h role a ops).2.clock = s.clock := rfl
@[simp] theorem State.phys_turn (s : State) (r : Nat) (h : BusHandle) (role : WireRole) (a : Addr) (ops : List BusOp) :
    (s.phys r h role a ops).2.turn = s.turn := rfl
@[simp] theorem State.phys_agenda (s : State) (r : Nat) (h : BusHandle) (role : WireRole) (a : Addr) (ops : List BusOp) :
    (s.phys r h role a ops).2.agenda = s.agenda := rfl
@[simp] theorem State.phys_responses (s : State) (r : Nat) (h : BusHandle) (role : WireRole) (a : Addr) (ops : List BusOp) :
    (s.phys r h role a ops).2.responses = s.responses := rfl
@[simp] theorem State.phys_env (s : State) (r : Nat) (h : BusHandle) (role : WireRole) (a : Addr) (ops : List BusOp) :
    (s.phys r h role a ops).2.env = (s.env.answer s.cfg.expBus a ops).2 := rfl
@[simp] theorem State.phys_reply (s : State) (r : Nat) (h : BusHandle) (role : WireRole) (a : Addr) (ops : List BusOp) :
    (s.phys r h role a ops).1 = (s.env.answer s.cfg.expBus a ops).1 := rfl
@[simp] theorem State.phys_wire (s : State) (r : Nat) (h : BusHandle) (role : WireRole) (a : Addr) (ops : List BusOp) :
    (s.phys r h role a ops).2.wire = s.wire ++ [⟨r, h, role, a, ops, (s.phys r h role a ops).1⟩] := rfl

/-! ## `acquire` -/

@[simp] theorem State.acquire_cfg (s : State) (r : Nat) : (s.acquire r).cfg = s.cfg := by
  unfold State.acquire; split <;> rfl
@[simp] theorem State.acquire_reqs (s : State) (r : Nat) : (s.acquire r).reqs = s.reqs := by
  unfold State.acquire; split <;> rfl
@[simp] theorem State.acquire_btn (s : State) (r : Nat) : (s.acquire r).btn = s.btn := by
  unfold State.acquire; split <;> rfl
@[simp] theorem State.acquire_hex (s : State) (r : Nat) : (s.acquire r).hex = s.hex := by
  unfold State.acquire; split <;> rfl
@[simp] theorem State.acquire_cap (s : State) (r : Nat) : (s.acquire r).cap = s.cap := by
  unfold State.acquire; split <;> rfl
@[simp] theorem State.acquire_env (s : State) (r : Nat) : (s.acquire r).env = s.env := by
  unfold State.acquire; split <;> rfl
@[simp] theorem State.acquire_clock (s : State) (r : Nat) : (s.acquire r).clock = s.clock := by
  unfold State.acquire; split <;> rfl
@[simp] theorem State.acquire_turn (s : State) (r : Nat) : (s.acquire r).turn = s.turn := by
  unfold State.acquire; split <;> rfl
@[simp] theorem State.acquire_agenda (s : State) (r : Nat) : (s.acquire r).agenda = s.agenda := by
  unfold State.acquire; split <;> rfl
@[simp] theorem State.acquire_wire (s : State) (r : Nat) : (s.acquire r).wire = s.wire := by
  unfold State.acquire; split <;> rfl
@[simp] theorem State.acquire_responses (s : State) (r : Nat) : (s.acquire r).responses = s.responses := by
  unfold State.acquire; split <;> rfl

/-! ## `release` -/

@[simp] theorem State.release_cfg (s : State) (r : Nat) : (s.release r).cfg = s.cfg := by
  unfold State.release; split <;> rfl
@[simp] theorem State.release_wait (s : State) (r : Nat) : (s.release r).wait = s.wait := by
  unfold State.release; split <;> rfl
@[simp] theorem State.release_reqs (s : State) (r : Nat) : (s.release r).reqs = s.reqs := by
  unfold State.release; split <;> rfl
@[simp] theorem State.release_btn (s : State) (r : Nat) : (s.release r).btn = s.btn := by
  unfold State.release; split <;> rfl
@[simp] theorem State.release_hex (s : State) (r : Nat) : (s.release r).hex = s.hex := by
  unfold State.release; split <;> rfl
@[simp] theorem State.release_cap (s : State) (r : Nat) : (s.release r).cap = s.cap := by
  unfold State.release; split <;> rfl
@[simp] theorem State.release_env (s : State) (r : Nat) : (s.release r).env = s.env := by
  unfold State.release; split <;> rfl
@[simp] theorem State.release_clock (s : State) (r : Nat) : (s.release r).clock = s.clock := by
  unfold State.release; split <;> rfl
@[simp] theorem State.release_turn (s : State) (r : Nat) : (s.release r).turn = s.turn := by
  unfold State.release; split <;> rfl
@[simp] theorem State.release_agenda (s : State) (r : Nat) : (s.release r).agenda = s.agenda := by
  unfold State.release; split <;> rfl
@[simp] theorem State.release_wire (s : State) (r : Nat) : (s.release r).wire = s.wire := by
  unfold State.release; split <;> rfl
@[simp] theorem State.release_responses (s : State) (r : Nat) : (s.release r).responses = s.responses := by
  unfold State.release; split <;> rfl

/-! ## `grant` -/

@[simp] theorem State.grant_cfg (s : State) (r : Nat) : (s.grant r).cfg = s.cfg := by
  unfold State.grant; split <;> rfl
@[simp] theorem State.grant_reqs (s : State) (r : Nat) : (s.grant r).reqs = s.reqs := by
  unfold State.grant; split <;> rfl
@[simp] theorem State.grant_btn (s : State) (r : Nat) : (s.grant r).btn = s.btn := by
  unfold State.grant; split <;> rfl
@[simp] theorem State.grant_hex (s : State) (r : Nat) : (s.grant r).hex = s.hex := by
  unfold State.grant; split <;> rfl
@[simp] theorem State.grant_cap (s : State) (r : Nat) : (s.grant r).cap = s.cap := by
  unfold State.grant; split <;> rfl
@[simp] theorem State.grant_env (s : State) (r : Nat) : (s.grant r).env = s.env := by
  unfold State.grant; split <;> rfl
@[simp] theorem State.grant_clock (s : State) (r : Nat) : (s.grant r).clock = s.clock := by
  unfold State.grant; split <;> rfl
@[simp] theorem State.grant_turn (s : State) (r : Nat) : (s.grant r).turn = s.turn := by
  unfold State.grant; split <;> rfl
@[simp] theorem State.grant_agenda (s : State) (r : Nat) : (s.grant r).agenda = s.agenda := by
  unfold State.grant; split <;> rfl
@[simp] theorem State.grant_wire (s : State) (r : Nat) : (s.grant r).wire = s.wire := by
  unfold State.grant; split <;> rfl
@[simp] theorem State.grant_responses (s : State) (r : Nat) : (s.grant r).responses = s.responses := by
  unfold State.grant; split <;> rfl

/-! ## `raise` -/

@[simp] theorem State.raise_cfg (s : State) (r : Nat) (k : TransportError) : (s.raise r k).cfg = s.cfg := by
  simp [State.raise]
@[simp] theorem State.raise_wait (s : State) (r : Nat) (k : TransportError) : (s.raise r k).wait = s.wait := by
  simp [State.raise]
@[simp] theorem State.raise_btn (s : State) (r : Nat) (k : TransportError) : (s.raise r k).btn = s.btn := by
  simp [State.raise]
@[simp] theorem State.raise_hex (s : State) (r : Nat) (k : TransportError) : (s.raise r k).hex = s.hex := by
  simp [State.raise]
@[simp] theorem State.raise_cap (s : State) (r : Nat) (k : TransportError) : (s.raise r k).cap = s.cap := by
  simp [State.raise]
@[simp] theorem State.raise_env (s : State) (r : Nat) (k : TransportError) : (s.raise r k).env = s.env := by
  simp [State.raise]
@[simp] theorem State.raise_clock (s : State) (r : Nat) (k : TransportError) : (s.raise r k).clock = s.clock := by
  simp [State.raise]
@[simp] theorem State.raise_turn (s : State) (r : Nat) (k : TransportError) : (s.raise r k).turn = s.turn := by
  simp [State.raise]
@[simp] theorem State.raise_agenda (s : State) (r : Nat) (k : TransportError) : (s.raise r k).agenda = s.agenda := by
  simp [State.raise]
@[simp] theorem State.raise_wire (s : State) (r : Nat) (k : TransportError) : (s.raise r k).wire = s.wire := by
  simp [State.raise]
@[simp] theorem State.raise_lock (s : State) (r : Nat) (k : TransportError) : (s.raise r k).lock = (s.release r).lock := rfl
@[simp] theorem State.raise_responses (s : State) (r : Nat) (k : TransportError) :
    (s.raise r k).responses = s.responses ++ [(r, [errorCode k])] := by simp [State.raise]

end Sys2Proof.Machine
end

