-- ==== Sys2Proof/Laws/Ops.lean ====
section
/-! SUPPORT. For each shared operation, one lemma that says everything it can do; statements are proved from these
and not by unfolding the operations. -/

namespace Sys2Proof.Machine

/-! ## Ports -/

@[simp] theorem State.req_setReq_self (s : State) (r : Nat) (q : Requester) (h : r < s.reqs.length) :
    (s.setReq r q).req r = q := by
  simp [State.req, State.setReq, List.getD_eq_getElem?_getD, h]

@[simp] theorem State.req_setReq_ne (s : State) (r k : Nat) (q : Requester) (h : k ≠ r) :
    (s.setReq r q).req k = s.req k := by
  simp [State.req, State.setReq, List.getD_eq_getElem?_getD, List.getElem?_set_ne (Ne.symm h)]

theorem State.req_of_reqs_eq {s t : State} (h : t.reqs = s.reqs) (r : Nat) : t.req r = s.req r := by
  simp [State.req, h]

theorem State.seq_of_reqs_eq {s t : State} (h : t.reqs = s.reqs) (r : Nat) : t.seq r = s.seq r := by
  simp [State.seq, State.req, h]

theorem State.req_beyond (s : State) (r : Nat) (h : s.reqs.length ≤ r) : s.req r = Requester.idle 0 := by
  simp [State.req, List.getD_eq_getElem?_getD, List.getElem?_eq_none h]

theorem State.lt_of_cmd {s : State} {r : Nat} {i : Instr} (h : (s.req r).cmd = some i) : r < s.reqs.length := by
  by_contra hle
  rw [State.req_beyond s r (by omega)] at h
  simp [Requester.idle] at h

@[simp] theorem State.setReq_setReq (s : State) (r : Nat) (q q' : Requester) :
    (s.setReq r q).setReq r q' = s.setReq r q' := by
  simp [State.setReq, List.set_set]

@[simp] theorem State.length_setReq (s : State) (r : Nat) (q : Requester) :
    (s.setReq r q).reqs.length = s.reqs.length := by simp

theorem State.setReq_req (s : State) (r : Nat) : s.setReq r (s.req r) = s := by
  by_cases h : r < s.reqs.length
  · have : s.reqs.set r (s.req r) = s.reqs := by
      apply List.ext_getElem?
      intro k
      by_cases hk : k = r
      · subst hk; simp [State.req, List.getD_eq_getElem?_getD, h]
      · simp [List.getElem?_set_ne (Ne.symm hk)]
    simp [State.setReq, this]
  · simp [State.setReq, List.set_eq_of_length_le (by omega : s.reqs.length ≤ r)]

/-! ## Updates of one port -/

theorem State.setSeq_req (s : State) (r : Nat) (q : Seq) (h : r < s.reqs.length) :
    (s.setSeq r q).req r = { s.req r with seq := q } := by simp [State.setSeq, h]

theorem State.setSeq_req_ne (s : State) (r k : Nat) (q : Seq) (h : k ≠ r) : (s.setSeq r q).req k = s.req k := by
  simp [State.setSeq, h]

theorem State.load_req (s : State) (r : Nat) (i : Instr) (h : r < s.reqs.length) :
    (s.load r i).req r = { s.req r with cmd := some i, seq := Seq.cleared (s.seq r).tmp } := by simp [State.load, h]

theorem State.load_req_ne (s : State) (r k : Nat) (i : Instr) (h : k ≠ r) : (s.load r i).req k = s.req k := by
  simp [State.load, h]

theorem State.respond_req (s : State) (r : Nat) (bytes : List Byte) (h : r < s.reqs.length) :
    (s.respond r bytes).req r = { cmd := none, seq := Seq.cleared (s.seq r).tmp, res := bytes } := by
  have : (s.respond r bytes).req r = (s.setReq r ⟨none, Seq.cleared (s.seq r).tmp, bytes⟩).req r := rfl
  rw [this, State.req_setReq_self _ _ _ h]

theorem State.respond_req_ne (s : State) (r k : Nat) (bytes : List Byte) (h : k ≠ r) :
    (s.respond r bytes).req k = s.req k := by
  have : (s.respond r bytes).req k = (s.setReq r ⟨none, Seq.cleared (s.seq r).tmp, bytes⟩).req k := rfl
  rw [this, State.req_setReq_ne _ _ _ _ h]

@[simp] theorem State.setSeq_length (s : State) (r : Nat) (q : Seq) :
    (s.setSeq r q).reqs.length = s.reqs.length := by simp [State.setSeq]

@[simp] theorem State.load_length (s : State) (r : Nat) (i : Instr) :
    (s.load r i).reqs.length = s.reqs.length := by simp [State.load]

@[simp] theorem State.respond_length (s : State) (r : Nat) (bytes : List Byte) :
    (s.respond r bytes).reqs.length = s.reqs.length := by
  simp [State.respond]

@[simp] theorem State.hang_length (s : State) (r : Nat) : (s.hang r).reqs.length = s.reqs.length := by
  simp [State.hang]

@[simp] theorem State.raise_length (s : State) (r : Nat) (k : TransportError) :
    (s.raise r k).reqs.length = s.reqs.length := by simp [State.raise]

@[simp] theorem State.answerIllegal_length (s : State) (r : Nat) :
    (s.answerIllegal r).reqs.length = s.reqs.length := by simp [State.answerIllegal]

/-! ## Admission -/

@[simp] theorem Admission.andThen_true (entry : Admission) : entry.andThen true = entry := by cases entry <;> rfl

@[simp] theorem Admission.andThen_waits (b : Bool) : Admission.waits.andThen b = .waits := rfl

@[simp] theorem Admission.andThen_refused (b : Bool) : Admission.refused.andThen b = .refused := rfl

/-- A command passes both checks exactly when it passes each. -/
theorem Admission.andThen_eq_admitted (entry : Admission) (b : Bool) :
    entry.andThen b = .admitted ↔ entry = .admitted ∧ b = true := by
  cases entry <;> cases b <;> simp [Admission.andThen, admitIf]

/-- A failed further check refuses, unless the command waits. -/
theorem Admission.andThen_false {entry : Admission} (h : entry ≠ .waits) : entry.andThen false = .refused := by
  cases entry <;> simp_all [Admission.andThen, admitIf]

/-! ## The lock -/

theorem State.release_lock (s : State) (r : Nat) :
    (s.release r).lock = if s.lock = .held r then .free else s.lock := by
  unfold State.release; split <;> simp_all

theorem State.acquire_cases (s : State) (r : Nat) :
    (s.lock = .free ∧ s.acquire r = { s with lock := .held r }) ∨
    (∃ k, s.lock = .held k ∧ s.acquire r = { s with wait := waitInsert s.wait r }) := by
  unfold State.acquire
  cases h : s.lock with
  | free => exact .inl ⟨rfl, rfl⟩
  | held k => exact .inr ⟨k, rfl, rfl⟩

@[simp] theorem mem_waitInsert (w : List Nat) (r k : Nat) : k ∈ waitInsert w r ↔ k = r ∨ k ∈ w := by
  induction w with
  | nil => simp [waitInsert]
  | cons x rest ih =>
    unfold waitInsert
    split
    · simp
    · split
      · subst_vars; simp
      · simp only [List.mem_cons, ih]; tauto

theorem waitInsert_sorted (w : List Nat) (r : Nat) (h : w.Pairwise (· < ·)) :
    (waitInsert w r).Pairwise (· < ·) := by
  induction w with
  | nil => simp [waitInsert]
  | cons x rest ih =>
    rw [List.pairwise_cons] at h
    unfold waitInsert
    split
    · rename_i hlt
      refine List.pairwise_cons.2 ⟨?_, List.pairwise_cons.2 h⟩
      intro y hy
      rcases List.mem_cons.1 hy with rfl | hy
      · exact hlt
      · exact lt_trans hlt (h.1 y hy)
    · split
      · exact List.pairwise_cons.2 h
      · refine List.pairwise_cons.2 ⟨?_, ih h.2⟩
        intro y hy
        rcases (mem_waitInsert rest r y).1 hy with rfl | hy
        · omega
        · exact h.1 y hy

theorem State.grant_cases (s : State) (r : Nat) :
    (s.lock = .free ∧ r ∈ s.wait ∧ s.grant r = { s with lock := .held r, wait := s.wait.filter (· != r) }) ∨
    s.grant r = s := by
  unfold State.grant
  split
  · rename_i h; exact .inl ⟨h.1, h.2, rfl⟩
  · exact .inr rfl

/-! ## One micro-step -/

/-- Everything a micro-step inside a bus operation can do (R131, R132, R262, R63). -/
theorem State.busMicro_cases (s : State) (r : Nat) (b : BusStep) :
    (s.lock ≠ .held r ∧ s.busMicro r b = s.acquire r) ∨
    (s.lock = .held r ∧ ∃ n, b.handle = .channel n ∧ (s.seq r).selected = false ∧
      ∃ answer s1, s.phys r b.handle .select muxAddr [.write [selectByte n]] = (answer, s1) ∧
        ((∃ rx, answer = .ok rx ∧ s.busMicro r b = s1.setSeq r { s1.seq r with selected := true }) ∨
         (∃ k, answer = .err k ∧ s.busMicro r b = s1.raise r k) ∨
         (answer = .never ∧ s.busMicro r b = s1.hang r))) ∨
    (s.lock = .held r ∧ (b.handle = .direct ∨ (s.seq r).selected = true) ∧
      ∃ answer s1, s.phys r b.handle .payload b.addr (b.payload (s.seq r).tmp) = (answer, s1) ∧
        ((∃ rx, answer = .ok rx ∧ s.busMicro r b = (s1.release r).setSeq r (b.absorb rx (s1.seq r))) ∨
         (∃ k, answer = .err k ∧ s.busMicro r b = s1.raise r k) ∨
         (answer = .never ∧ s.busMicro r b = s1.hang r))) := by
  unfold State.busMicro
  by_cases hl : s.lock = .held r
  · rw [if_pos hl]
    cases hh : b.handle with
    | direct =>
      refine .inr (.inr ⟨hl, .inl rfl, ?_⟩)
      rcases hp : s.phys r .direct .payload b.addr (b.payload (s.seq r).tmp) with ⟨answer, s1⟩
      refine ⟨answer, s1, rfl, ?_⟩
      cases answer <;> simp
    | channel n =>
      cases hs : (s.seq r).selected with
      | false =>
        refine .inr (.inl ⟨hl, n, rfl, rfl, ?_⟩)
        rcases hp : s.phys r (.channel n) .select muxAddr [.write [selectByte n]] with ⟨answer, s1⟩
        refine ⟨answer, s1, rfl, ?_⟩
        cases answer <;> simp [hp]
      | true =>
        refine .inr (.inr ⟨hl, .inr rfl, ?_⟩)
        rcases hp : s.phys r (.channel n) .payload b.addr (b.payload (s.seq r).tmp) with ⟨answer, s1⟩
        refine ⟨answer, s1, rfl, ?_⟩
        cases answer <;> simp
  · exact .inl ⟨hl, by simp [hl]⟩

/-- Everything a micro-step of a command can do (R21, R24, R73, R112). -/
theorem State.microStep_cases (s : State) (r : Nat) (entry : State → Nat → Admission) (bus : List BusStep)
    (finish : List Byte → State → State × List Byte) :
    ((r ∈ s.wait ∨ (s.seq r).hung = true) ∧ s.microStep r entry bus finish = s) ∨
    (r ∉ s.wait ∧ (s.seq r).hung = false ∧
      (((s.seq r).started = true ∧ ∃ b, bus[(s.seq r).idx]? = some b ∧
          s.microStep r entry bus finish = s.busMicro r b) ∨
       ((s.seq r).started = true ∧ bus[(s.seq r).idx]? = none ∧
          s.microStep r entry bus finish = s.complete r finish) ∨
       ((s.seq r).started = false ∧ entry s r = .admitted ∧ bus = [] ∧
          s.microStep r entry bus finish = s.complete r finish) ∨
       ((s.seq r).started = false ∧ entry s r = .admitted ∧ bus ≠ [] ∧
          s.microStep r entry bus finish = s.setSeq r { s.seq r with started := true }) ∨
       ((s.seq r).started = false ∧ entry s r = .refused ∧
          s.microStep r entry bus finish = s.respond r [statusIllegal]) ∨
       ((s.seq r).started = false ∧ entry s r = .waits ∧ s.microStep r entry bus finish = s))) := by
  unfold State.microStep
  by_cases hw : r ∈ s.wait ∨ (s.seq r).hung = true
  · exact .inl ⟨hw, by simp [hw]⟩
  · refine .inr ⟨fun h => hw (.inl h), by simpa using fun h => hw (.inr h), ?_⟩
    simp only [hw, if_false]
    cases hs : (s.seq r).started with
    | true =>
      simp only [if_true]
      cases hb : bus[(s.seq r).idx]? with
      | none => simp
      | some b => simp
    | false =>
      simp only [Bool.false_eq_true, if_false]
      cases ha : entry s r with
      | admitted => cases bus <;> simp
      | refused => simp
      | waits => simp

/-! ## The turn of a requester -/

/-- What every command ends with leaves the ports alone: its local update touches no port, no lock and no wait. -/
theorem commandFinish_keeps (i : Instr) (held : List Byte) (s : State) :
    (commandFinish i held s).1.reqs = s.reqs ∧ (commandFinish i held s).1.lock = s.lock ∧
    (commandFinish i held s).1.wait = s.wait ∧ (commandFinish i held s).1.cfg = s.cfg ∧
    (commandFinish i held s).1.env = s.env ∧ (commandFinish i held s).1.turn = s.turn ∧
    (commandFinish i held s).1.agenda = s.agenda ∧ (commandFinish i held s).1.wire = s.wire ∧
    (commandFinish i held s).1.responses = s.responses := by
  cases i <;> simp [commandFinish, finishHeld, finishNone, finishWith, finishCap, finishBit, finishButtons,
    finishSlots, finishSetEnabled]

/-- Every meaning is the turn of a requester on its row of the three tables (R24). -/
theorem exec_eq (i : Instr) (s : State) :
    exec i s = .next (s.runCommand i (commandAdmission i) (commandSteps s.cfg i) (commandFinish i)) := by
  cases i <;> rfl

/-- One micro-step of requester `r` on command `i`, by its row of the three tables. -/
abbrev State.micro (s : State) (r : Nat) (i : Instr) (P : Params) : State :=
  s.microStep r (commandAdmission i) (commandSteps P i) (commandFinish i)

theorem State.complete_reqs (s : State) (r : Nat) (i : Instr) :
    (s.complete r (commandFinish i)).reqs =
      s.reqs.set r ⟨none, Seq.cleared (s.seq r).tmp, statusOk :: (commandFinish i (s.seq r).held s).2⟩ := by
  have h := (commandFinish_keeps i (s.seq r).held s).1
  simp only [State.complete, State.respond, State.setReq]
  rw [h, State.seq_of_reqs_eq h]

theorem State.complete_req (s : State) (r : Nat) (i : Instr) (h : r < s.reqs.length) :
    (s.complete r (commandFinish i)).req r =
      ⟨none, Seq.cleared (s.seq r).tmp, statusOk :: (commandFinish i (s.seq r).held s).2⟩ := by
  simp [State.req, State.complete_reqs, List.getD_eq_getElem?_getD, h]

theorem State.complete_req_ne (s : State) (r k : Nat) (i : Instr) (h : k ≠ r) :
    (s.complete r (commandFinish i)).req k = s.req k := by
  simp [State.req, State.complete_reqs, List.getD_eq_getElem?_getD, List.getElem?_set_ne (Ne.symm h)]

/-- A micro-step leaves the command of its requester in place or ends it. -/
theorem State.micro_cmd (s : State) (r : Nat) (i : Instr) (P : Params) (hc : (s.req r).cmd = some i) :
    ((s.micro r i P).req r).cmd = some i ∨ ((s.micro r i P).req r).cmd = none := by
  have hr := State.lt_of_cmd hc
  rcases s.microStep_cases r (commandAdmission i) (commandSteps P i) (commandFinish i) with
    ⟨_, e⟩ | ⟨_, _, ⟨_, b, _, e⟩ | ⟨_, _, e⟩ | ⟨_, _, _, e⟩ | ⟨_, _, _, e⟩ | ⟨_, _, e⟩ | ⟨_, _, e⟩⟩
  · rw [State.micro, e]; exact .inl hc
  · rw [State.micro, e]
    rcases s.busMicro_cases r b with ⟨_, e⟩ | ⟨_, n, _, _, answer, s1, hp, h⟩ | ⟨_, _, answer, s1, hp, h⟩
    · rw [e, State.req_of_reqs_eq (s := s) (by simp)]; exact .inl hc
    all_goals
      have h1 : s1.reqs = s.reqs := by have := congrArg (fun x => x.2.reqs) hp; simpa using this.symm
      have hr1 : r < s1.reqs.length := by rw [h1]; exact hr
      have hc1 : (s1.req r).cmd = some i := by rw [State.req_of_reqs_eq h1]; exact hc
      rcases h with ⟨rx, _, e⟩ | ⟨k, _, e⟩ | ⟨_, e⟩ <;> rw [e]
    · left; rw [State.setSeq_req _ _ _ hr1]; exact hc1
    · right; rw [State.raise, State.respond_req _ _ _ (by simpa using hr1)]
    · left; rw [State.hang, State.setSeq_req _ _ _ hr1]; exact hc1
    · left
      rw [State.setSeq_req _ _ _ (by simpa using hr1), State.req_of_reqs_eq (s := s1) (by simp)]; exact hc1
    · right; rw [State.raise, State.respond_req _ _ _ (by simpa using hr1)]
    · left; rw [State.hang, State.setSeq_req _ _ _ hr1]; exact hc1
  · rw [State.micro, e, State.complete_req _ _ _ hr]; exact .inr rfl
  · rw [State.micro, e, State.complete_req _ _ _ hr]; exact .inr rfl
  · rw [State.micro, e, State.setSeq_req _ _ _ hr]; exact .inl hc
  · rw [State.micro, e, State.respond_req _ _ _ hr]; exact .inr rfl
  · rw [State.micro, e]; exact .inl hc

/-- A property that every micro-step of command `i` keeps is kept by the whole turn. -/
theorem State.advance_keeps {Q : State → Prop} {r : Nat} {i : Instr} {P : Params}
    (hstep : ∀ s, Q s → (s.req r).cmd = some i → Q (s.micro r i P)) (n : Nat) (s : State) (hq : Q s)
    (hc : (s.req r).cmd = some i ∨ (s.req r).cmd = none) :
    Q (State.advance r (commandAdmission i) (commandSteps P i) (commandFinish i) n s) := by
  induction n generalizing s with
  | zero => exact hq
  | succ n ih =>
    rw [State.advance]
    rcases hc with hc | hc
    · simp only [hc, Option.isNone_some, Bool.false_eq_true, if_false]
      exact ih _ (hstep s hq hc) (s.micro_cmd r i P hc)
    · simp only [hc, Option.isNone_none, if_true]; exact hq

/-- A property that loading command `i` and every micro-step of it keep is kept by the whole meaning. -/
theorem exec_keeps {Q : State → Prop} {i : Instr} {s t : State} (he : exec i s = .next t) (hq : Q s)
    (hload : s.turn.requester < s.reqs.length → (s.req s.turn.requester).cmd = none →
      Q (s.load s.turn.requester i))
    (hstep : ∀ u, Q u → (u.req s.turn.requester).cmd = some i → Q (u.micro s.turn.requester i s.cfg)) : Q t := by
  rw [exec_eq] at he
  injection he with he
  subst he
  unfold State.runCommand
  split
  · rename_i hr
    split
    · rename_i hc
      exact State.advance_keeps hstep _ _ (hload hr hc) (.inl (by rw [State.load_req _ _ _ hr]))
    · rename_i j hc
      split
      · rename_i hj
        subst hj
        exact State.advance_keeps hstep _ _ hq (.inl hc)
      · exact hq
  · exact hq

end Sys2Proof.Machine
end

