-- ==== Sys2Proof/Laws/PerInstr.lean ====
section
/-! SUPPORT. A family of lemmas about every command as syntax: the packet the encoder writes has the length that the
decoder's length rule determines from it (30_encoding.md R101, R102). -/

namespace Sys2Proof.Laws

theorem lengthByte (w : List Byte) (h : payloadFits w = true) : (BitVec.ofNat 8 w.length).toNat = w.length := by
  simp only [payloadFits, decide_eq_true_eq] at h
  simp only [BitVec.toNat_ofNat]
  omega

theorem descriptorsLength_encoded (ops : List BusOp) (tail : List Byte) (h : ∀ op ∈ ops, descriptorFits op = true) :
    descriptorsLength ops.length (ops.flatMap descriptorBytes ++ tail) = (ops.flatMap descriptorBytes).length := by
  induction ops with
  | nil => rfl
  | cons op rest ih =>
    have ih := ih fun o ho => h o (by simp [ho])
    have hop := h op (by simp)
    cases op with
    | read len =>
      simp [descriptorsLength, descriptorBytes] at ih ⊢
      rw [ih]; omega
    | write d =>
      have hl := lengthByte d hop
      simp only [List.flatMap_cons, descriptorBytes, List.length_cons, descriptorsLength, List.cons_append,
        List.getD_cons_zero, List.getD_cons_succ, hl] at ih ⊢
      have hd : List.drop (2 + d.length) (1 :: BitVec.ofNat 8 d.length ::
          (d ++ (rest.flatMap descriptorBytes) ++ tail)) = rest.flatMap descriptorBytes ++ tail := by
        rw [show 2 + d.length = d.length + 1 + 1 by omega, List.drop_succ_cons, List.drop_succ_cons]
        simp
      simp only [List.append_assoc] at hd ih ⊢
      rw [if_pos (by decide), hd, ih]
      simp; omega

namespace PacketLength

/-- The packet of a command has the length R102 determines from its opcode and length fields. -/
def Statement (i : Instr) : Prop := i.wf = true → (encode i).length = packetLength (encode i)

theorem busRead (h : BusHandle) (a : Addr) (rlen : Byte) : Statement (.busRead h a rlen) := fun _ => rfl
theorem busWrite (h : BusHandle) (a : Addr) (w : List Byte) : Statement (.busWrite h a w) := fun hw => by
  have := lengthByte w hw
  simp [encode, opcode, operandBytes, packetLength] at this ⊢; omega
theorem busWriteRead (h : BusHandle) (a : Addr) (w : List Byte) (rlen : Byte) :
    Statement (.busWriteRead h a w rlen) := fun hw => by
  have := lengthByte w hw
  simp [encode, opcode, operandBytes, packetLength] at this ⊢; omega
theorem busTransaction (h : BusHandle) (a : Addr) (ops : List BusOp) : Statement (.busTransaction h a ops) :=
  fun hw => by
  simp only [Instr.wf, descriptorsFit, Bool.and_eq_true, decide_eq_true_eq, List.all_eq_true] at hw
  have hn : (BitVec.ofNat 8 ops.length).toNat = ops.length := by simp only [BitVec.toNat_ofNat]; omega
  have hd := descriptorsLength_encoded ops [] hw.2
  rw [List.append_nil] at hd
  have e : packetLength (encode (.busTransaction h a ops))
      = 4 + descriptorsLength (BitVec.ofNat 8 ops.length).toNat (ops.flatMap descriptorBytes) := rfl
  rw [e, hn, hd]
  simp [encode, operandBytes]; omega
theorem regRead (h : BusHandle) (a : Addr) (g : Byte) : Statement (.regRead h a g) := fun _ => rfl
theorem regWrite (h : BusHandle) (a : Addr) (g v : Byte) : Statement (.regWrite h a g v) := fun _ => rfl
theorem chipInit (c : Fin 3) : Statement (.chipInit c) := fun _ => rfl
theorem pinSetMode (p : Pin) (m : PinMode) : Statement (.pinSetMode p m) := fun _ => rfl
theorem pinSetDir (p : Pin) (d : PinDir) : Statement (.pinSetDir p d) := fun _ => rfl
theorem pinSetState (p : Pin) (l : Level) : Statement (.pinSetState p l) := fun _ => rfl
theorem pinSetDuty (p : Pin) (duty : Byte) : Statement (.pinSetDuty p duty) := fun _ => rfl
theorem pinSetDutyFrac (p : Pin) (num den : BitVec 16) : Statement (.pinSetDutyFrac p num den) := fun _ => rfl
theorem pinSetDutyPct (p : Pin) (pct : Byte) : Statement (.pinSetDutyPct p pct) := fun _ => rfl
theorem pinMaxDuty : Statement .pinMaxDuty := fun _ => rfl
theorem capIntoOutput (p : Pin) : Statement (.capIntoOutput p) := fun _ => rfl
theorem capIntoInput (p : Pin) : Statement (.capIntoInput p) := fun _ => rfl
theorem capIntoLed (p : Pin) : Statement (.capIntoLed p) := fun _ => rfl
theorem capOutSet (p : Pin) (l : Level) : Statement (.capOutSet p l) := fun _ => rfl
theorem capInRead (p : Pin) : Statement (.capInRead p) := fun _ => rfl
theorem capLedDuty (p : Pin) (duty : Byte) : Statement (.capLedDuty p duty) := fun _ => rfl
theorem capLedDutyFrac (p : Pin) (num den : BitVec 16) : Statement (.capLedDutyFrac p num den) := fun _ => rfl
theorem capLedDutyPct (p : Pin) (pct : Byte) : Statement (.capLedDutyPct p pct) := fun _ => rfl
theorem pidEncode (p : Pin) : Statement (.pidEncode p) := fun _ => rfl
theorem snapRead : Statement .snapRead := fun _ => rfl
theorem snapPinState (p : Pin) (snap : Snapshot) : Statement (.snapPinState p snap) := fun _ => rfl
theorem btnUpdate (snap : Snapshot) : Statement (.btnUpdate snap) := fun _ => rfl
theorem hexUpdate (snap : Snapshot) : Statement (.hexUpdate snap) := fun _ => rfl
theorem hexSetEnabled (slot : Fin 6) (enable : Bool) : Statement (.hexSetEnabled slot enable) := fun _ => rfl

end PacketLength

end Sys2Proof.Laws
end

