-- ==== Sys2Proof/Machine/Assembler.lean ====
section
/-! DEFINITION. The textual form of a command (30_encoding.md R114) and the pseudo-commands (R115). Text is for
readers; no rule of the machine depends on it. -/

namespace Sys2Proof.Machine

/-- A hexadecimal digit. -/
def hexDigit (n : Nat) : String :=
  ["0", "1", "2", "3", "4", "5", "6", "7", "8", "9", "A", "B", "C", "D", "E", "F"].getD n "?"

/-- A byte in the notation of R10. -/
def byteText (b : Byte) : String := "0x" ++ hexDigit (b.toNat / 16) ++ hexDigit (b.toNat % 16)

/-- A bus address. -/
def addrText (a : Addr) : String := byteText (BitVec.ofNat 8 a.toNat)

/-- A bus handle, `direct` or `ch0` to `ch7`. -/
def busText : BusHandle → String
  | .direct => "direct"
  | .channel n => "ch" ++ toString n.val

/-- A pin, `A.P<P>.<K>`. -/
def pinText (p : Pin) : String :=
  addrText (chipAddr p.chip) ++ ".P" ++ toString p.port.val ++ "." ++ toString p.bit.val

/-- A byte string, `[b0, b1, ...]`. -/
def bytesText (w : List Byte) : String := "[" ++ ", ".intercalate (w.map byteText) ++ "]"

/-- A snapshot as a byte string. -/
def snapshotText (s : Snapshot) : String := bytesText [s.s0, s.s1, s.s2, s.s3, s.s4, s.s5]

/-- One operation of `bus.transaction`, `r <len>` or `w [..]`. -/
def opText : BusOp → String
  | .read len => "r " ++ toString len.toNat
  | .write d => "w " ++ bytesText d

/-- `gpio` or `led`. -/
def modeText : PinMode → String
  | .gpio => "gpio"
  | .led => "led"

/-- `input` or `output`. -/
def dirText : PinDir → String
  | .input => "input"
  | .output => "output"

/-- `high` or `low`. -/
def levelText : Level → String
  | .high => "high"
  | .low => "low"

/-- Operands joined by commas. -/
def operandText (parts : List String) : String := ", ".intercalate parts

/-- The assembler line of a command (R114). -/
def asmText : Instr → String
  | .busRead h a n => "bus.read " ++ operandText [busText h, addrText a, toString n.toNat]
  | .busWrite h a w => "bus.write " ++ operandText [busText h, addrText a, bytesText w]
  | .busWriteRead h a w n =>
    "bus.write_read " ++ operandText [busText h, addrText a, bytesText w, toString n.toNat]
  | .busTransaction h a ops =>
    "bus.transaction " ++ operandText [busText h, addrText a, " ; ".intercalate (ops.map opText)]
  | .regRead h a g => "reg.read " ++ operandText [busText h, addrText a, byteText g]
  | .regWrite h a g v => "reg.write " ++ operandText [busText h, addrText a, byteText g, byteText v]
  | .chipInit c => "chip.init " ++ toString c.val
  | .pinSetMode p m => "pin.set_mode " ++ operandText [pinText p, modeText m]
  | .pinSetDir p d => "pin.set_dir " ++ operandText [pinText p, dirText d]
  | .pinSetState p l => "pin.set_state " ++ operandText [pinText p, levelText l]
  | .pinSetDuty p d => "pin.set_duty " ++ operandText [pinText p, byteText d]
  | .pinSetDutyFrac p n d => "pin.set_duty_frac " ++ operandText [pinText p, toString n.toNat, toString d.toNat]
  | .pinSetDutyPct p v => "pin.set_duty_pct " ++ operandText [pinText p, toString v.toNat]
  | .pinMaxDuty => "pin.max_duty"
  | .capIntoOutput p => "cap.into_output " ++ pinText p
  | .capIntoInput p => "cap.into_input " ++ pinText p
  | .capIntoLed p => "cap.into_led " ++ pinText p
  | .capOutSet p l => "cap.out_set " ++ operandText [pinText p, levelText l]
  | .capInRead p => "cap.in_read " ++ pinText p
  | .capLedDuty p d => "cap.led_duty " ++ operandText [pinText p, byteText d]
  | .capLedDutyFrac p n d => "cap.led_duty_frac " ++ operandText [pinText p, toString n.toNat, toString d.toNat]
  | .capLedDutyPct p v => "cap.led_duty_pct " ++ operandText [pinText p, toString v.toNat]
  | .pidEncode p => "pid.encode " ++ pinText p
  | .snapRead => "snap.read"
  | .snapPinState p s => "snap.pin_state " ++ operandText [pinText p, snapshotText s]
  | .btnUpdate s => "btn.update " ++ snapshotText s
  | .hexUpdate s => "hex.update " ++ snapshotText s
  | .hexSetEnabled k on => "hex.set_enabled " ++ operandText [toString k.val, if on then "on" else "off"]

/-- An assembler line with the requester that issues it (R114). -/
def asmLine (r : Nat) (i : Instr) : String := "r" ++ toString r ++ ": " ++ asmText i

/-- `pin.set_high` (R115). -/
def pseudoSetHigh (p : Pin) : Instr := .pinSetState p .high

/-- `pin.set_low` (R115). -/
def pseudoSetLow (p : Pin) : Instr := .pinSetState p .low

/-- `hex.enable` (R115). -/
def pseudoHexEnable (k : Fin 6) : Instr := .hexSetEnabled k true

/-- `hex.disable` (R115). -/
def pseudoHexDisable (k : Fin 6) : Instr := .hexSetEnabled k false

end Sys2Proof.Machine
end

