-- ==== Sys2Proof/Tests/Slice0.lean ====
section
/-! SUPPORT. Small checks of the model: what WellFormed refuses, packets written out from the encoding tables,
vectors of 95_test_vectors.md of one step each, and for every statement with hypotheses a state that meets them. -/

namespace Sys2Proof.Tests

open Sys2Proof.Machine

/-! ## WellFormed: an ill-formed term for each check, which the check refuses -/

set_option maxRecDepth 20000 in
theorem test_wf_write_too_long : (Instr.busWrite .direct 0x58 (List.replicate 256 0)).wf = false := by decide

set_option maxRecDepth 20000 in
theorem test_wf_write_read_too_long : (Instr.busWriteRead .direct 0x58 (List.replicate 256 0) 1).wf = false := by decide

set_option maxRecDepth 20000 in
theorem test_wf_descriptor_too_long :
    (Instr.busTransaction .direct 0x58 [.write (List.replicate 256 0)]).wf = false := by decide

set_option maxRecDepth 20000 in
theorem test_wf_too_many_descriptors :
    (Instr.busTransaction .direct 0x58 (List.replicate 256 (.read 1))).wf = false := by decide

theorem test_wf_percent_above_100 : (Instr.pinSetDutyPct ⟨0, 0, 0⟩ 101).wf = false := by decide

theorem test_wf_led_percent_above_100 : (Instr.capLedDutyPct ⟨0, 0, 0⟩ 101).wf = false := by decide

set_option maxRecDepth 20000 in
theorem test_wf_longest_write : (Instr.busWrite .direct 0x58 (List.replicate 255 0)).wf = true := by decide

/-! ## Decoding: for every constructor a packet written out from 30_encoding.md sections 2, 3 and 5 -/

theorem test_decode_busRead : decode [0x01, 0x03, 0x20, 0x02] = .ok (.busRead (.channel 3) 0x20 2) := by decide
theorem test_decode_busWrite : decode [0x02, 0x08, 0x77, 0x01, 0x80] = .ok (.busWrite .direct 0x77 [0x80]) := by
  decide
theorem test_decode_busWriteRead :
    decode [0x03, 0x07, 0x58, 0x01, 0x04, 0x10] = .ok (.busWriteRead (.channel 7) 0x58 [0x10] 4) := by decide
theorem test_decode_busTransaction :
    decode [0x04, 0x07, 0x5A, 0x02, 0x01, 0x02, 0x00, 0x01, 0x00, 0x02] =
      .ok (.busTransaction (.channel 7) 0x5A [.write [0x00, 0x01], .read 2]) := by decide
theorem test_decode_regRead : decode [0x10, 0x07, 0x59, 0x04] = .ok (.regRead (.channel 7) 0x59 0x04) := by decide
theorem test_decode_regWrite : decode [0x11, 0x07, 0x58, 0x11, 0x10] = .ok (.regWrite (.channel 7) 0x58 0x11 0x10) := by
  decide
theorem test_decode_chipInit : decode [0x12, 0x02] = .ok (.chipInit 2) := by decide
theorem test_decode_pinSetMode : decode [0x20, 0x03, 0x00] = .ok (.pinSetMode ⟨0, 0, 3⟩ .led) := by decide
theorem test_decode_pinSetDir : decode [0x21, 0x2F, 0x01] = .ok (.pinSetDir ⟨2, 1, 7⟩ .input) := by decide
theorem test_decode_pinSetState : decode [0x22, 0x11, 0x01] = .ok (.pinSetState ⟨1, 0, 1⟩ .high) := by decide
theorem test_decode_pinSetDuty : decode [0x23, 0x0C, 0x55] = .ok (.pinSetDuty ⟨0, 1, 4⟩ 0x55) := by decide
theorem test_decode_pinSetDutyFrac :
    decode [0x24, 0x08, 0xFE, 0xFF, 0x00, 0x01] = .ok (.pinSetDutyFrac ⟨0, 1, 0⟩ 65534 256) := by decide
theorem test_decode_pinSetDutyPct : decode [0x25, 0x00, 0x64] = .ok (.pinSetDutyPct ⟨0, 0, 0⟩ 100) := by decide
theorem test_decode_pinMaxDuty : decode [0x26] = .ok .pinMaxDuty := by decide
theorem test_decode_capIntoOutput : decode [0x30, 0x02] = .ok (.capIntoOutput ⟨0, 0, 2⟩) := by decide
theorem test_decode_capIntoInput : decode [0x31, 0x0E] = .ok (.capIntoInput ⟨0, 1, 6⟩) := by decide
theorem test_decode_capIntoLed : decode [0x32, 0x15] = .ok (.capIntoLed ⟨1, 0, 5⟩) := by decide
theorem test_decode_capOutSet : decode [0x33, 0x02, 0x00] = .ok (.capOutSet ⟨0, 0, 2⟩ .low) := by decide
theorem test_decode_capInRead : decode [0x34, 0x2D] = .ok (.capInRead ⟨2, 1, 5⟩) := by decide
theorem test_decode_capLedDuty : decode [0x35, 0x08, 0x10] = .ok (.capLedDuty ⟨0, 1, 0⟩ 0x10) := by decide
theorem test_decode_capLedDutyFrac :
    decode [0x36, 0x08, 0x01, 0x00, 0x04, 0x00] = .ok (.capLedDutyFrac ⟨0, 1, 0⟩ 1 4) := by decide
theorem test_decode_capLedDutyPct : decode [0x37, 0x15, 0x64] = .ok (.capLedDutyPct ⟨1, 0, 5⟩ 100) := by decide
theorem test_decode_pidEncode : decode [0x38, 0x1C] = .ok (.pidEncode ⟨1, 1, 4⟩) := by decide
theorem test_decode_snapRead : decode [0x40] = .ok .snapRead := by decide
theorem test_decode_snapPinState :
    decode [0x41, 0x2F, 0xFE, 0xFF, 0xFF, 0xFF, 0xFF, 0x7F] =
      .ok (.snapPinState ⟨2, 1, 7⟩ ⟨0xFE, 0xFF, 0xFF, 0xFF, 0xFF, 0x7F⟩) := by decide
theorem test_decode_btnUpdate :
    decode [0x50, 0x01, 0x02, 0x03, 0x04, 0x05, 0x06] = .ok (.btnUpdate ⟨1, 2, 3, 4, 5, 6⟩) := by decide
theorem test_decode_hexUpdate :
    decode [0x60, 0xF7, 0xFF, 0xFF, 0xDF, 0xFF, 0xFE] = .ok (.hexUpdate ⟨0xF7, 0xFF, 0xFF, 0xDF, 0xFF, 0xFE⟩) := by
  decide
theorem test_decode_hexSetEnabled : decode [0x61, 0x0D] = .ok (.hexSetEnabled 5 true) := by decide

/-- The illegal packets of 95_test_vectors.md section 6 that the decoder rejects, each by its name. -/
theorem test_illegal_packets :
    [[0x00], [0x05, 0x07, 0x58, 0x01], [0x13, 0x00], [0x27], [0x39, 0x00], [0x42], [0x51], [0x62, 0x00], [0xFF],
      []].all (fun b => decode b == .error .reservedOpcode) ∧
    [[0x40, 0x00], [0x12], [0x50, 0xFF, 0xFF, 0xFF, 0xFF, 0xFF], [0x41, 0x00, 0xFF, 0xFF, 0xFF, 0xFF, 0xFF],
      [0x24, 0x08, 0x01, 0x00, 0x04], [0x02, 0x07, 0x58, 0x02, 0x11]].all
        (fun b => decode b == .error .wrongLength) ∧
    decode [0x10, 0x09, 0x58, 0x10] = .error .badBussel ∧ decode [0x11, 0x07, 0xD8, 0x11, 0x10] = .error .badAddr ∧
    [[0x30, 0x30], [0x34, 0x7F], [0x23, 0x42, 0x10]].all (fun b => decode b == .error .badPid) ∧
    [[0x21, 0x00, 0x02], [0x33, 0x02, 0xFF]].all (fun b => decode b == .error .badVal) ∧
    [[0x25, 0x00, 0x65], [0x37, 0x15, 0xFF]].all (fun b => decode b == .error .badPercent) ∧
    [[0x12, 0x03], [0x61, 0x06], [0x61, 0x18]].all (fun b => decode b == .error .badArg) ∧
    decode [0x04, 0x07, 0x58, 0x01, 0x02, 0x01] = .error .badKind := by decide

/-- A row of the opcode table is read with bit 0 first: `REG_READ` is 32 bits, its opcode the lowest byte. -/
theorem test_table_word : decodeTableWord 32 0x04590710 = some (.regRead (.channel 7) 0x59 0x04) := by decide

theorem test_assembler_text : asmText (.pinSetMode ⟨0, 0, 3⟩ .led) = "pin.set_mode 0x58.P0.3, led" := by decide

/-! ## Vectors of 95_test_vectors.md, each one step -/

/-- The machine of the vectors: the state after reset with `E_ref` on the bus, and 0 for the unspecified `TMP`. -/
def bench : State :=
  { State.reset with reqs := [Requester.idle 0, Requester.idle 0], env := Environment.reference }

/-- The bench with some chip registers set before the command. -/
def benchRegs (regs : List (Fin 3 × Byte × Byte)) : State :=
  { bench with env := regs.foldl (fun e x => e.setReg x.1 x.2.1 x.2.2) bench.env }

/-- The bench with foreseen clock readings. -/
def benchAt (now : List Timestamp) : State := { bench with clock := { bench.clock with script := now } }

/-- The bench with one capability tag set. -/
def benchCap (p : Pin) (t : CapTag) : State := bench.setCap p t

/-- The bench under no law, with the replies that are foreseen. -/
def scripted (replies : List Reply) : State :=
  { bench with env := { Environment.reference with law := .general, script := replies } }

/-- What one step makes of a packet presented on port 0, for a whole command's turn. -/
def after (s : State) (packet : List Byte) : State :=
  match step { s with agenda := [.present 0 packet 20] } with
  | .next t => t
  | .fault _ => s
  | .refused _ => s

/-- The response of that step. -/
def answer (s : State) (packet : List Byte) : List Byte := ((after s packet).req 0).res

/-- The payloads that step puts on the wire. -/
def payloads (s : State) (packet : List Byte) : List (Addr × List BusOp) :=
  ((after s packet).wire.filter fun e => e.role == .payload).map fun e => (e.addr, e.ops)

/-- V-B5: a transaction of a write and a read. -/
theorem test_busTransaction :
    answer bench [0x04, 0x07, 0x5A, 0x02, 0x01, 0x02, 0x00, 0x01, 0x00, 0x02] = [0x00, 0xFF, 0xFF] := by decide

/-- V-B4 and V-B7: a bare read is answered by nobody in `E_ref`; a read of length 0 is refused. -/
theorem test_busRead : answer bench [0x01, 0x07, 0x58, 0x02] = [0x01] ∧ answer bench [0x01, 0x07, 0x58, 0x00] = [0xFE] := by
  decide

/-- V-B6: the select byte of channel 3, then the host's own write to the multiplexer. -/
theorem test_busWrite : (after bench [0x02, 0x03, 0x77, 0x01, 0x01]).env.muxsel = 0x01 ∧
    (after bench [0x02, 0x03, 0x77, 0x01, 0x01]).wire.map (fun e => e.ops) = [[.write [0x08]], [.write [0x01]]] := by
  decide

/-- V-B1. -/
theorem test_busWriteRead : answer bench [0x03, 0x07, 0x58, 0x01, 0x01, 0x10] = [0x00, 0x23] := by decide

/-- V-D2. -/
theorem test_regRead : answer (benchRegs [(0, 0x11, 0x10)]) [0x10, 0x07, 0x58, 0x11] = [0x00, 0x10] := by decide

/-- V-D1. -/
theorem test_regWrite : (after bench [0x11, 0x07, 0x58, 0x11, 0x10]).chipReg 0 0x11 = 0x10 := by decide

/-- V-D3: the answer and the four payloads. -/
theorem test_chipInit : answer bench [0x12, 0x00] = [0x00, 0x23] ∧
    payloads bench [0x12, 0x00] = [(0x58, [.write [0x10], .read 1]), (0x58, [.write [0x11, 0x10]]),
      (0x58, [.write [0x06, 0xFF]]), (0x58, [.write [0x07, 0xFF]])] := by decide

/-- V-E1: a missing chip ends the command at once. -/
theorem test_chipInit_absent :
    answer { bench with env := { bench.env with absent := [1] } } [0x12, 0x01] = [0x01] := by decide

/-- V-D5. -/
theorem test_pinSetMode : (after (benchRegs [(0, 0x12, 0xFF)]) [0x20, 0x03, 0x00]).chipReg 0 0x12 = 0xF7 := by
  decide

/-- V-D9. -/
theorem test_pinSetDir : (after bench [0x21, 0x2F, 0x01]).chipReg 2 0x05 = 0x80 := by decide

/-- V-D10. -/
theorem test_pinSetState : (after (benchRegs [(1, 0x02, 0xA5)]) [0x22, 0x10, 0x00]).chipReg 1 0x02 = 0xA4 := by
  decide

/-- V-D24: the dimmer of P1.4 is DIM12. -/
theorem test_pinSetDuty : payloads bench [0x23, 0x0C, 0x55] = [(0x58, [.write [0x2C, 0x55]])] := by decide

/-- V-D35: the product needs more than 16 bits. -/
theorem test_pinSetDutyFrac :
    payloads bench [0x24, 0x08, 0xFE, 0xFF, 0xFF, 0xFF] = [(0x58, [.write [0x20, 0xFE]])] := by decide

/-- V-D37 and V-D38. -/
theorem test_pinSetDutyFrac_refused : answer bench [0x24, 0x08, 0x00, 0x00, 0x00, 0x00] = [0xFE] ∧
    answer bench [0x24, 0x08, 0x05, 0x00, 0x04, 0x00] = [0xFE] := by decide

/-- V-D43. -/
theorem test_pinSetDutyPct : payloads bench [0x25, 0x00, 0x63] = [(0x58, [.write [0x24, 0xFC]])] := by decide

/-- V-D46. -/
theorem test_pinMaxDuty : answer bench [0x26] = [0x00, 0xFF] := by decide

/-- V-C1. -/
theorem test_capIntoOutput :
    (after (benchRegs [(0, 0x04, 0xFF)]) [0x30, 0x02]).capOf ⟨0, 0, 2⟩ = .output ∧
    payloads (benchRegs [(0, 0x04, 0xFF)]) [0x30, 0x02] = [(0x58, [.write [0x12], .read 1]), (0x58, [.write [0x12, 0x04]]),
      (0x58, [.write [0x04], .read 1]), (0x58, [.write [0x04, 0xFB]])] := by decide

/-- V-E3: the fourth payload fails, and the tag stays as it was. -/
theorem test_capIntoOutput_failed :
    let s := scripted [.ok [], .ok [0x00], .ok [], .ok [], .ok [], .ok [0xFF], .ok [], .err .electricalFault]
    answer s [0x30, 0x02] = [0x03] ∧ (after s [0x30, 0x02]).capOf ⟨0, 0, 2⟩ = .free ∧
      (after s [0x30, 0x02]).lock = .free := by decide

/-- V-C8: a detect pin is the HEX unit's. -/
theorem test_capIntoInput : answer bench [0x31, 0x0E] = [0xFE] ∧
    (after bench [0x31, 0x02]).capOf ⟨0, 0, 2⟩ = .input := by decide

/-- V-C10 and V-C11: the direction is written only where the parameter says so. -/
theorem test_capIntoLed : (payloads bench [0x32, 0x15]).length = 2 ∧
    (payloads { bench with cfg := { bench.cfg with ledDirWrite := .output } } [0x32, 0x15]).length = 4 := by
  decide

/-- V-C4 and V-C7. -/
theorem test_capOutSet : (after (benchCap ⟨0, 0, 2⟩ .output) [0x33, 0x02, 0x01]).chipReg 0 0x02 = 0x04 ∧
    answer (benchCap ⟨0, 0, 2⟩ .input) [0x33, 0x02, 0x01] = [0xFE] := by decide

/-- V-C6 and V-C9. -/
theorem test_capInRead :
    answer { benchCap ⟨0, 0, 2⟩ .input with env := { bench.env with pins := #v[0xFB, 0xFF, 0xFF, 0xFF, 0xFF, 0xFF] } }
      [0x34, 0x02] = [0x00, 0x00] ∧ answer bench [0x34, 0x05] = [0xFE] := by decide

/-- P3, step 7: the Led handle is gone. -/
theorem test_capLedDuty : answer (benchCap ⟨0, 1, 0⟩ .output) [0x35, 0x08, 0x10] = [0xFE] ∧
    payloads (benchCap ⟨0, 1, 0⟩ .led) [0x35, 0x08, 0x10] = [(0x58, [.write [0x20, 0x10]])] := by decide

/-- P3, steps 3 and 4. -/
theorem test_capLedDutyFrac :
    payloads (benchCap ⟨0, 1, 0⟩ .led) [0x36, 0x08, 0x01, 0x00, 0x04, 0x00] = [(0x58, [.write [0x20, 0x3F]])] ∧
    answer (benchCap ⟨0, 1, 0⟩ .led) [0x36, 0x08, 0x05, 0x00, 0x04, 0x00] = [0xFE] := by decide

/-- V-C12: DIM9 of chip 0x59. -/
theorem test_capLedDutyPct :
    payloads (benchCap ⟨1, 0, 5⟩ .led) [0x37, 0x15, 0x64] = [(0x59, [.write [0x29, 0xFF]])] := by decide

/-- The rows 0x0C and 0x2B of the table in 95_test_vectors.md section 4. -/
theorem test_pidEncode : answer bench [0x38, 0x0C] = [0x00, 0x58, 0x01, 0x03, 0x05, 0x13, 0x2C, 0x10] ∧
    answer bench [0x38, 0x2B] = [0x00, 0x5A, 0x01, 0x03, 0x05, 0x13, 0x23, 0x08] := by decide

/-- V-S1: six bytes, and six wire transactions. -/
theorem test_snapRead :
    let s := { bench with env := { bench.env with pins := #v[0xFE, 0xFF, 0xFF, 0xFF, 0xFF, 0x7F] } }
    answer s [0x40] = [0x00, 0xFE, 0xFF, 0xFF, 0xFF, 0xFF, 0x7F] ∧ (after s [0x40]).wire.length = 6 := by decide

/-- V-S7: no partial snapshot. -/
theorem test_snapRead_absent :
    let s := { bench with env := { bench.env with absent := [1] } }
    answer s [0x40] = [0x01] ∧ (after s [0x40]).wire.length = 4 := by decide

/-- V-S3 and V-S5. -/
theorem test_snapPinState : answer bench [0x41, 0x2F, 0xFE, 0xFF, 0xFF, 0xFF, 0xFF, 0x7F] = [0x00, 0x00] ∧
    answer bench [0x41, 0x1C, 0x00, 0x00, 0x00, 0x10, 0x00, 0x00] = [0x00, 0x01] := by decide

/-- The example of R216: one event, with its record written out. -/
theorem test_btnUpdate :
    answer { benchAt [200] with btn := Vector.replicate 6 (some ⟨.released, 100⟩) }
      [0x50, 0xFE, 0xFF, 0xFF, 0xFF, 0xFF, 0xFF] = [0x00, 0x01, 0x28, 0x64, 0x00, 0x00, 0x00, 0x00, 0x00, 0x00, 0x00,
        0xC8, 0x00, 0x00, 0x00, 0x00, 0x00, 0x00, 0x00] := by decide

/-- V-K4: bits that belong to no button are ignored. -/
theorem test_btnUpdate_silent :
    answer { benchAt [40] with btn := #v[some ⟨.pressed, 10⟩, some ⟨.released, 30⟩, some ⟨.pressed, 10⟩,
      some ⟨.pressed, 10⟩, some ⟨.released, 30⟩, some ⟨.pressed, 10⟩] }
      [0x50, 0xFE, 0xF7, 0xFF, 0xFF, 0xFB, 0xDF] = [0x00, 0x00] := by decide

/-- The example of R236. -/
theorem test_hexUpdate :
    answer { benchAt [0x0130] with hex := #v[.empty, .empty, .disabled false, .empty, .empty, .empty] }
      [0x60, 0xFF, 0xBF, 0xFF, 0xFF, 0xFF, 0xFF] = [0x00, 0x02, 0x20, 0x30, 0x01, 0x00, 0x00, 0x00, 0x00, 0x00, 0x00,
        0x02, 0x30, 0x01, 0x00, 0x00, 0x00, 0x00, 0x00, 0x00] := by decide

/-- V-X5: disabling slot 3. -/
theorem test_hexSetEnabled_off :
    (after bench [0x61, 0x03]).hex[3] = .disabled false ∧ (after bench [0x61, 0x03]).capOf ⟨0, 0, 3⟩ = .output ∧
    payloads bench [0x61, 0x03] = [(0x58, [.write [0x12], .read 1]), (0x58, [.write [0x12, 0x08]]),
      (0x58, [.write [0x04], .read 1]), (0x58, [.write [0x04, 0x00]]), (0x58, [.write [0x02], .read 1]),
      (0x58, [.write [0x02, 0x08]])] := by decide

/-- V-X6: enabling it again. -/
theorem test_hexSetEnabled_on :
    let s := { benchRegs [(0, 0x12, 0x08)] with hex := bench.hex.set 3 (.disabled false) }
    (after s [0x61, 0x0B]).hex[3] = .untracked ∧ (after s [0x61, 0x0B]).capOf ⟨0, 0, 3⟩ = .input ∧
    (after s [0x61, 0x0B]).chipReg 0 0x04 = 0x08 := by decide

/-- R48 and U10: a chip register holds a byte at reset, the draw of power-on. -/
theorem test_reset_register : State.reset.chipReg 2 0x05 = Config.registerDraw 0 517 := rfl

/-- U8: after a write to SW_RSTN a register of that chip is any byte, and one of another chip is as before. -/
theorem test_software_reset_draws :
    let s := { scripted [.ok [], .ok []] with env := (scripted [.ok [], .ok []]).env.setReg 1 0x05 0x77 }
    (after s [0x11, 0x07, 0x58, 0x7F, 0x00]).chipReg 0 0x05 = Config.registerDraw 2 5 ∧
      (after s [0x11, 0x07, 0x58, 0x7F, 0x00]).chipReg 1 0x05 = 0x77 := ⟨rfl, rfl⟩

/-- R190: admission by R183, with its wait, comes before the check of the fraction; with nothing in the way the
fraction is refused. -/
theorem test_bad_fraction_waits :
    let bad : Instr := .capLedDutyFrac ⟨0, 0, 2⟩ 5 4
    let other : Requester := { cmd := some (.capInRead ⟨0, 0, 2⟩), seq := { Seq.cleared 0 with started := true }, res := [] }
    commandAdmission bad { bench with reqs := [Requester.idle 0, other] } 0 = .waits ∧
      commandAdmission bad bench 0 = .refused := by decide

/-- A table word is presented and run as the first command after reset. -/
theorem test_fetch_word :
    step (State.reset.withFetchWord 8 0x26) =
      exec .pinMaxDuty { State.reset with turn := { requester := 0, budget := 20 } } := rfl

/-! ## States that meet the hypotheses of the statements -/

/-- The bench with port 0 in the middle of command `i`, a turn of one micro-step, and the given lock. -/
def inFlight (i : Instr) (q : Seq) (l : LockState) : State :=
  { bench with reqs := [{ cmd := some i, seq := q, res := [] }, Requester.idle 0], lock := l, turn := ⟨0, 1⟩ }

/-- A sequencer in progress, at the start of its first bus operation. -/
def atStart : Seq := { Seq.cleared 0 with started := true }

/-- The register read that the states in flight are about. -/
def sampleRead : Instr := .regRead (.channel 7) 0x58 0x10

/-- Port 0 between select write and payload, port 1 waiting for the lock. -/
def midOperation : State :=
  { bench with
    reqs := [{ cmd := some sampleRead, seq := { atStart with selected := true }, res := [] },
      { cmd := some (.capInRead ⟨0, 0, 2⟩), seq := atStart, res := [] }]
    lock := .held 0
    wait := [1]
    wire := [⟨0, .channel 7, .select, 0x77, [.write [0x80]], .ok []⟩]
    agenda := [.run 0 1] }

theorem bench_cmd (k : Nat) : (bench.req k).cmd = none := by
  match k with
  | 0 => rfl
  | 1 => rfl
  | _ + 2 => rfl

theorem bench_capIdle (r : Nat) (p : Pin) : bench.capIdle r p := by
  intro k i _ h
  rw [bench_cmd] at h
  cases h

theorem bench_hexIdle (r : Nat) : bench.hexIdle r := by
  intro k i _ h
  rw [bench_cmd] at h
  cases h

theorem ends_ok {x : Reply × State} {rx : List Byte} (h : x.1 = .ok rx) : ∃ rx s1, x = (.ok rx, s1) :=
  ⟨rx, x.2, Prod.ext h rfl⟩

theorem ends_err {x : Reply × State} {k : TransportError} (h : x.1 = .err k) : ∃ k s1, x = (.err k, s1) :=
  ⟨k, x.2, Prod.ext h rfl⟩

theorem ends_never {x : Reply × State} (h : x.1 = .never) : ∃ s1, x = (.never, s1) := ⟨x.2, Prod.ext h rfl⟩

/-- After one read-modify-write, another (the shape of the conversions). -/
def second (r : Nat) (p : Pin) (base : Byte) (set : Bool) (x : Reply × State) : Reply × State :=
  match x with
  | (.ok _, s1) => s1.rmw r p base set
  | other => other

theorem witness_EncodeThenDecode :
    (Instr.busTransaction .direct 0x7F [.write [0xFF], .read 255]).wf ∧ (Instr.pinSetDutyPct ⟨2, 1, 7⟩ 100).wf := by
  decide

theorem witness_DecodeThenEncode : ∃ i, decode [0x04, 0x08, 0x7F, 0x01, 0x00, 0xFF] = .ok i := ⟨_, rfl⟩

/-- Each clause of `LegalOperandsAreInRange` at the upper end of its range. -/
theorem witness_LegalOperandsAreInRange :
    (∃ i, decode [0x01, 0x08, 0x7F, 0xFF] = .ok i) ∧ (∃ i, decode [0x38, 0x2F] = .ok i) ∧
    (∃ i, decode [0x22, 0x2F, 0x01] = .ok i) ∧ (∃ i, decode [0x37, 0x2F, 0x64] = .ok i) ∧
    (∃ i, decode [0x12, 0x02] = .ok i) ∧ ∃ i, decode [0x61, 0x0D] = .ok i :=
  ⟨⟨_, rfl⟩, ⟨_, rfl⟩, ⟨_, rfl⟩, ⟨_, rfl⟩, ⟨_, rfl⟩, ⟨_, rfl⟩⟩

/-- The `KIND` clause of `LegalOperandsAreInRange`: the last descriptor of a list, a read, behind a write. -/
theorem witness_LegalOperandsAreInRange_kind :
    let rest : List Byte := [0x50, 0x02, 0x01, 0x02, 0x00, 0x10, 0x00, 0x04]
    let before : List BusOp := [.write [0x00, 0x10]]
    (∃ i, decode (0x04 :: 0x08 :: rest) = .ok i) ∧ (∀ d ∈ before, descriptorFits d) ∧
      before.length < (rest.getD 1 0).toNat ∧ rest.drop 2 = before.flatMap descriptorBytes ++ 0x00 :: [0x04] :=
  ⟨⟨_, rfl⟩, by decide, by decide, by decide⟩

theorem witness_DecodedLengthIsDetermined : ∃ i, decode [0x03, 0x07, 0x58, 0x01, 0x04, 0x10] = .ok i := ⟨_, rfl⟩

theorem witness_MalformedPacketsAreIllegal : bench.ready 0 ∧ ∀ i : Instr, i.wf → [0x40, 0x00] ≠ encode i := by
  refine ⟨by decide, fun i _ => ?_⟩
  cases i <;> simp [encode, opcode, operandBytes]

/-- For each opcode of which a statement says that a malformed packet is illegal: the opcode alone, or with one byte
too many. -/
theorem witness_malformedIsIllegal : bench.ready 0 ∧
    (∀ op ∈ [0x10, 0x11, 0x20, 0x21, 0x23, 0x41], ∀ i : Instr, i.wf → op :: [] ≠ encode i) := by
  refine ⟨by decide, fun op ho i _ => ?_⟩
  simp only [List.mem_cons, List.not_mem_nil, or_false] at ho
  rcases ho with rfl | rfl | rfl | rfl | rfl | rfl <;> cases i <;> simp [encode, opcode, operandBytes]

theorem witness_StepRunsDecodedCommand :
    ∃ rest i, ({ bench with agenda := [.present 0 [0x26] 5] } : State).agenda = .present 0 [0x26] 5 :: rest ∧
      ({ bench with agenda := [.present 0 [0x26] 5] } : State).ready 0 ∧ decode [0x26] = .ok i :=
  ⟨[], .pinMaxDuty, rfl, rfl, rfl⟩

theorem witness_StepContinuesCommandInFlight :
    midOperation.agenda = [.run 0 1] ∧ (midOperation.req 0).cmd = some sampleRead := ⟨rfl, rfl⟩

theorem witness_PacketOnBusyPortIsNotTaken :
    ({ bench with agenda := [.present 2 [0x26] 5] } : State).agenda = [.present 2 [0x26] 5] ∧
      ({ bench with agenda := [.present 2 [0x26] 5] } : State).reqs.length ≤ 2 ∧
    ({ midOperation with agenda := [.present 0 [0x26] 5] } : State).agenda = [.present 0 [0x26] 5] ∧
      ∃ i, (({ midOperation with agenda := [.present 0 [0x26] 5] } : State).req 0).cmd = some i :=
  ⟨rfl, by decide, rfl, _, rfl⟩

theorem witness_GrantServesAWaiter :
    ({ midOperation with agenda := [.grant 1], lock := .free } : State).lock = .free ∧
    1 ∈ ({ midOperation with agenda := [.grant 1], lock := .free } : State).wait ∧
    ({ midOperation with agenda := [.grant 1] } : State).lock ≠ .free ∧
    0 ∉ ({ midOperation with agenda := [.grant 0], lock := .free } : State).wait := by decide

/-- Both clauses of `AskingForTheLock`: a free lock, and one that another requester holds. -/
theorem witness_AskingForTheLock :
    let a := inFlight sampleRead atStart .free
    let b := inFlight sampleRead atStart (.held 1)
    a.turn = { requester := 0, budget := 0 + 1 } ∧ (a.req 0).cmd = some sampleRead ∧ (a.seq 0).started ∧
      (a.seq 0).hung = false ∧ 0 ∉ a.wait ∧ (a.seq 0).idx < (commandSteps a.cfg sampleRead).length ∧ a.lock = .free ∧
    b.turn = { requester := 0, budget := 0 + 1 } ∧ (b.req 0).cmd = some sampleRead ∧ (b.seq 0).started ∧
      (b.seq 0).hung = false ∧ 0 ∉ b.wait ∧ (b.seq 0).idx < (commandSteps b.cfg sampleRead).length ∧
      b.lock = .held 1 := by decide

theorem witness_WaiterPerformsNoStep :
    ({ midOperation with turn := ⟨1, 9⟩ } : State).turn.requester ∈ midOperation.wait ∧
      (midOperation.req 1).cmd = some (.capInRead ⟨0, 0, 2⟩) := by decide

/-- A wedged bus with another requester in need of it; the moves that follow let both go on. -/
theorem witness_WedgedBusStaysWedged :
    let s := { midOperation with
      reqs := [{ cmd := some sampleRead, seq := { atStart with hung := true }, res := [] },
        { cmd := some (.capInRead ⟨0, 0, 2⟩), seq := atStart, res := [] }], agenda := [.run 0 9, .run 1 9] }
    (s.req 0).cmd = some sampleRead ∧ s.lock = .held 0 ∧ (s.seq 0).hung ∧
      (∃ t, Host.Core.run Sys2Proof.core 2 s = .next t) ∧ (s.req 1).cmd = some (.capInRead ⟨0, 0, 2⟩) ∧
      (s.seq 1).started ∧ (s.seq 1).idx < (commandSteps s.cfg (.capInRead ⟨0, 0, 2⟩)).length :=
  ⟨rfl, rfl, rfl, ⟨_, rfl⟩, rfl, rfl, by decide⟩

/-- Both clauses of `TransportErrorEntry`: the select write fails, and the payload fails. -/
theorem witness_TransportErrorEntry :
    let general (q : Seq) : State :=
      { inFlight sampleRead q (.held 0) with env := (scripted [.err .arbitrationLoss]).env }
    let a := general atStart
    let b := general { atStart with selected := true }
    let op : BusStep := .readKept (.channel 7) 0x58 0x10
    (a.turn = { requester := 0, budget := 0 + 1 } ∧ (a.req 0).cmd = some sampleRead ∧ (a.seq 0).started ∧
      (a.seq 0).hung = false ∧ 0 ∉ a.wait ∧ a.lock = .held 0 ∧
      (commandSteps a.cfg sampleRead)[(a.seq 0).idx]? = some op ∧ op.handle = .channel 7 ∧
      (a.seq 0).selected = false ∧
      (a.phys 0 op.handle .select 0x77 [.write [BitVec.ofNat 8 (2 ^ 7)]]).1 = .err .arbitrationLoss) ∧
    (b.turn = { requester := 0, budget := 0 + 1 } ∧ (b.req 0).cmd = some sampleRead ∧ (b.seq 0).started ∧
      (b.seq 0).hung = false ∧ 0 ∉ b.wait ∧ b.lock = .held 0 ∧
      (commandSteps b.cfg sampleRead)[(b.seq 0).idx]? = some op ∧ (b.seq 0).selected ∧
      (b.phys 0 op.handle .payload op.addr (op.payload (b.seq 0).tmp)).1 = .err .arbitrationLoss) := by decide

/-- A state that meets both invariants, with the lock held, a requester waiting, and a channel selected; and it
takes a step. -/
theorem witness_EveryStepKeepsTheInvariant : midOperation.Inv ∧ ∃ t, step midOperation = .next t := by
  refine ⟨?_, _, rfl⟩
  have req0 : midOperation.req 0 = ⟨some sampleRead, { atStart with selected := true }, []⟩ := rfl
  have req1 : midOperation.req 1 = ⟨some (.capInRead ⟨0, 0, 2⟩), atStart, []⟩ := rfl
  have req2 : ∀ k, midOperation.req (k + 2) = Requester.idle 0 := fun _ => rfl
  constructor
  · rfl
  · decide
  · decide
  · intro r hr
    have : r = 1 := by simpa [midOperation] using hr
    subst this; decide
  · intro r hr
    match r, hr with
    | 0, _ => exact ⟨by decide, rfl, _, rfl, by decide⟩
    | 1, _ => exact ⟨by decide, rfl, _, rfl, by decide⟩
    | k + 2, hr => exact absurd hr (by simp [State.busy, midOperation])
  · intro r hr
    match r, hr with
    | 0, _ => rfl
    | 1, hr => exact absurd hr (by decide)
    | k + 2, hr => exact absurd hr (by simp [State.seq, req2, Requester.idle, Seq.cleared])
  · intro r hr
    match r, hr with
    | 0, hr => cases hr
    | 1, hr => cases hr
    | k + 2, _ => rfl
  · intro r hr
    match r, hr with
    | 0, hr => cases hr
    | 1, hr => cases hr
    | k + 2, _ => rfl
  · intro r i q hc _ hp
    match r, hc with
    | 0, hc => rw [req0] at hc; cases hc; cases hp
    | 1, hc => rw [req1] at hc; cases hc; cases hp; decide
    | k + 2, hc => rw [req2] at hc; cases hc
  · intro r k i j q hrk hi hj _ _ hp hq
    match r, hi with
    | 0, hi => rw [req0] at hi; cases hi; cases hp
    | 1, _ =>
      match k, hj with
      | 0, hj => rw [req0] at hj; cases hj; cases hq
      | 1, _ => exact hrk rfl
      | k + 2, hj => rw [req2] at hj; cases hj
    | r + 2, hi => rw [req2] at hi; cases hi
  · intro r k i j _ hi _ _ _ he
    match r, hi with
    | 0, hi => rw [req0] at hi; cases hi; cases he
    | 1, hi => rw [req1] at hi; cases hi; cases he
    | r + 2, hi => rw [req2] at hi; cases hi

theorem witness_EveryStepKeepsTheWireDiscipline :
    midOperation.Inv ∧ midOperation.WireInv ∧ ∃ t, step midOperation = .next t := by
  refine ⟨witness_EveryStepKeepsTheInvariant.1, ⟨⟨⟨rfl, rfl⟩, trivial⟩, ?_⟩, _, rfl⟩
  intro r hs _
  match r, hs with
  | 0, _ => exact ⟨_, _, 7, _, rfl, rfl, rfl, rfl, rfl, rfl, rfl, rfl, rfl, _, rfl⟩
  | 1, hs => cases hs
  | k + 2, hs => cases hs

theorem witness_CapTagsNeverReturnToFree :
    (∃ t, step { benchCap ⟨0, 0, 2⟩ .led with agenda := [.present 0 [0x31, 0x02] 20] } = .next t) ∧
      (benchCap ⟨0, 0, 2⟩ .led).capOf ⟨0, 0, 2⟩ ≠ .free := ⟨⟨_, rfl⟩, by decide⟩

theorem witness_ObservedButtonsStayObserved :
    let s := { bench with btn := Vector.replicate 6 (some ⟨.pressed, 1⟩), agenda := [.present 0 [0x26] 20] }
    (∃ t, step s = .next t) ∧ s.btn[(5 : Fin 6)] ≠ none := ⟨⟨_, rfl⟩, by decide⟩

theorem witness_DetectPinTagsAreTheHexUnits :
    midOperation.Inv ∧ isDetectPin midOperation.cfg ⟨0, 1, 6⟩ ∧ (∃ t, exec sampleRead midOperation = .next t) ∧
      ∀ k e, sampleRead ≠ .hexSetEnabled k e :=
  ⟨witness_EveryStepKeepsTheInvariant.1, by decide, ⟨_, rfl⟩, fun _ _ h => by cases h⟩

/-- The clauses of `CommandsWriteOnlyTheirLocalState`: a command that writes none of the local state, a conversion of
another pin, a slot command of another slot, and the five commands without wire traffic. -/
theorem witness_CommandsWriteOnlyTheirLocalState :
    (∃ t, exec .snapRead bench = .next t) ∧ (∃ t, exec (.capIntoLed ⟨0, 0, 2⟩) bench = .next t) ∧
    (∃ t, exec (.hexSetEnabled 5 false) bench = .next t) ∧ (4 : Fin 6) ≠ 5 ∧
    (∃ t, exec .pinMaxDuty bench = .next t) ∧ (∃ t, exec (.pidEncode ⟨0, 0, 2⟩) bench = .next t) ∧
    (∃ t, exec (.snapPinState ⟨0, 0, 2⟩ ⟨0, 0, 0, 0, 0, 0⟩) bench = .next t) ∧
    (∃ t, exec (.btnUpdate ⟨0, 0, 0, 0, 0, 0⟩) bench = .next t) ∧
    ∃ t, exec (.hexUpdate ⟨0, 0, 0, 0, 0, 0⟩) bench = .next t :=
  ⟨⟨_, rfl⟩, ⟨_, rfl⟩, ⟨_, rfl⟩, by decide, ⟨_, rfl⟩, ⟨_, rfl⟩, ⟨_, rfl⟩, ⟨_, rfl⟩, ⟨_, rfl⟩⟩

/-- The last offset that stores, on the chip itself, and an offset that does not, on another chip. -/
theorem witness_DriverCommandsWriteOnlyTheirRegisters :
    let i : Instr := .regWrite (.channel 7) 0x58 0x2F 1
    let j : Instr := .regWrite (.channel 7) 0x58 0x7F 0
    ((∃ t, exec i bench = .next t) ∧ isBusCommand i = false ∧
      (∀ h a g' v, i = .regWrite h a g' v → a = chipAddr 0 → isStorageReg g') ∧
      ∀ b ∈ commandSteps bench.cfg i, b.stores ≠ some (chipAddr 0, 0x2E)) ∧
    ((∃ t, exec j bench = .next t) ∧ isBusCommand j = false ∧
      (∀ h a g' v, j = .regWrite h a g' v → a = chipAddr 1 → isStorageReg g') ∧
      (∀ b ∈ commandSteps bench.cfg j, b.stores ≠ some (chipAddr 1, 0x7F)) ∧
      ∀ b ∈ commandSteps bench.cfg j, b.addr ≠ chipAddr 1) := by
  refine ⟨⟨⟨_, rfl⟩, rfl, ?_, by decide⟩, ⟨_, rfl⟩, rfl, ?_, by decide, by decide⟩
  · intro h a g v e _
    cases e
    rfl
  · intro h a g v e ha
    cases e
    exact absurd ha (by decide)

theorem witness_BusCommandsLeaveOtherChips :
    (∃ t, exec (.busWrite (.channel 7) 0x59 [0x02, 0x01]) bench = .next t) ∧
      isBusCommand (.busWrite (.channel 7) 0x59 [0x02, 0x01]) ∧
      commandSteps bench.cfg (.busWrite (.channel 7) 0x59 [0x02, 0x01]) =
        [.forward (.channel 7) 0x59 [.write [0x02, 0x01]]] ∧ chipAddr 0 ≠ 0x59 ∧
    (∃ t, exec (.busRead (.channel 7) 0x58 2) bench = .next t) ∧
      commandSteps bench.cfg (.busRead (.channel 7) 0x58 2) = [.forward (.channel 7) 0x58 [.read 2]] :=
  ⟨⟨_, rfl⟩, rfl, rfl, by decide, ⟨_, rfl⟩, rfl⟩

theorem witness_CommandsSendOnlyTheListedShapes : ∃ t, exec (.chipInit 0) bench = .next t := ⟨_, rfl⟩

/-- The clauses of `WireTransactionCounts` that have hypotheses: a command on a channel, one on the direct handle, and
a parameter set with untracked slots. -/
theorem witness_WireTransactionCounts :
    (∀ b ∈ commandSteps bench.cfg (.chipInit 0), b.handle = .direct ↔ false = true) ∧
    (∃ rx s1, bench.runSteps 0 (commandSteps bench.cfg (.chipInit 0)) [] = (.ok rx, s1)) ∧
    (∀ b ∈ commandSteps bench.cfg (.regWrite .direct 0x20 1 2), b.handle = .direct ↔ true = true) ∧
    (∃ rx s1, (scripted [.ok []]).runSteps 0 (commandSteps bench.cfg (.regWrite .direct 0x20 1 2)) [] = (.ok rx, s1)) ∧
    Params.vectors.hexResetState = .untracked :=
  ⟨by decide, ends_ok (rx := [0x23]) (by decide), by decide, ends_ok (rx := []) (by decide), rfl⟩

/-- The three endings of `UninterruptedCommandsRunTheirPseudocode`. -/
theorem witness_UninterruptedCommandsRunTheirPseudocode :
    let steps := commandSteps bench.cfg (.chipInit 0)
    bench.unhindered 0 (3 * steps.length + 2) ∧ commandAdmission (.chipInit 0) bench 0 = .admitted ∧
      (∃ rx s1, bench.runSteps 0 steps [] = (.ok rx, s1)) ∧
    (∀ replies, (scripted replies).unhindered 0 (3 * steps.length + 2) ∧
      commandAdmission (.chipInit 0) (scripted replies) 0 = .admitted) ∧
    (∃ k s1, (scripted [.ok [], .err .nak]).runSteps 0 steps [] = (.err k, s1)) ∧
    ∃ s1, (scripted [.ok [], .never]).runSteps 0 steps [] = (.never, s1) :=
  ⟨by decide, by decide, ends_ok (rx := [0x23]) (by decide),
    fun _ => ⟨⟨⟨rfl, (by decide : 0 < 2), rfl, (by decide : (0 : Nat) ∉ []), (by decide : 14 ≤ 20)⟩, rfl⟩, rfl⟩,
    ends_err (k := .nak) (by decide), ends_never (by decide)⟩

/-- Any script leaves the bench unhindered. -/
theorem scripted_unhindered (replies : List Reply) : (scripted replies).unhindered 0 20 :=
  ⟨⟨rfl, (by decide : 0 < 2), rfl, (by decide : (0 : Nat) ∉ []), (by decide : 20 ≤ 20)⟩, rfl⟩

/-- Each bus command with an exchange that delivers its bytes, and one that fails. -/
theorem witness_BusCommandsForwardTheHostsOperations :
    bench.unhindered 0 5 ∧ (∀ replies, (scripted replies).unhindered 0 20) ∧
    (∃ rx s1, (scripted [.ok [], .ok [1, 2]]).busOp 0 (.channel 3) 0x20 [.read 2] = (.ok rx, s1)) ∧
    (∃ rx s1, bench.busOp 0 (.channel 7) 0x58 [.write [0x11, 0x10]] = (.ok rx, s1)) ∧
    (∃ rx s1, bench.busOp 0 (.channel 7) 0x58 [.write [0x10], .read 1] = (.ok rx, s1)) ∧
    (∃ rx s1, bench.busOp 0 (.channel 7) 0x5A [.write [0x00, 0x01], .read 2] = (.ok rx, s1)) ∧
    (∀ op ∈ [BusOp.write [0x00, 0x01], .read 2], op ≠ .read 0 ∧ op ≠ .write []) ∧
    ∃ k s1, bench.busOp 0 (.channel 7) 0x58 [.read 2] = (.err k, s1) :=
  ⟨by decide, scripted_unhindered, ends_ok (rx := [1, 2]) (by decide), ends_ok (rx := []) (by decide),
    ends_ok (rx := [0x23]) (by decide), ends_ok (rx := [0xFF, 0xFF]) (by decide), by decide,
    ends_err (k := .nak) (by decide)⟩

theorem witness_ZeroLengthsAreRefused : bench.mayIssue 0 1 ∧ BusOp.read 0 ∈ [BusOp.write [1], .read 0] := by decide

theorem witness_RegisterRead : bench.unhindered 0 5 ∧
    (∃ rx s1, bench.busOp 0 (.channel 7) 0x58 [.write [0x10], .read 1] = (.ok rx, s1)) ∧
    ∃ k s1, bench.busOp 0 (.channel 3) 0x58 [.write [0x10], .read 1] = (.err k, s1) :=
  ⟨by decide, ends_ok (rx := [0x23]) (by decide), ends_err (k := .nak) (by decide)⟩

theorem witness_RegisterWrite : bench.unhindered 0 5 ∧
    (∃ rx s1, bench.busOp 0 (.channel 7) 0x58 [.write [0x7F, 0x00]] = (.ok rx, s1)) ∧
    ∃ k s1, bench.busOp 0 .direct 0x20 [.write [0x7F, 0x00]] = (.err k, s1) :=
  ⟨by decide, ends_ok (rx := []) (by decide), ends_err (k := .nak) (by decide)⟩

theorem witness_ChipInitialisation :
    let ops (a : Addr) : List (BusHandle × Addr × List BusOp) :=
      [(.channel 7, a, [.write [0x10], .read 1]), (.channel 7, a, [.write [0x11, 0x10]]),
        (.channel 7, a, [.write [0x06, 0xFF]]), (.channel 7, a, [.write [0x07, 0xFF]])]
    bench.unhindered 0 14 ∧ bench.cfg.expBus = .channel 7 ∧
    (∃ rx s1, bench.busOps 0 (ops 0x5A) [] = (.ok rx, s1)) ∧
    ∃ k s1, (scripted [.ok [], .err .nak]).busOps 0 (ops 0x58) [] = (.err k, s1) :=
  ⟨by decide, rfl, ends_ok (rx := [0x23]) (by decide), ends_err (k := .nak) (by decide)⟩

/-- The read of a read-modify-write delivers a byte, or fails; and so does the write. It serves `PinSetMode`,
`PinSetDirection` and `PinSetState` (pin 0x58.P0.2, registers 0x12, 0x04, 0x02). -/
theorem witness_pinCommands :
    bench.unhindered 0 8 ∧ bench.cfg.expBus = .channel 7 ∧
    (∀ g ∈ [(0x12 : Byte), 0x04, 0x02],
      (∃ rx s1, bench.busOp 0 (.channel 7) 0x58 [.write [g], .read 1] = (.ok rx, s1)) ∧
      (∃ rx s1, ((bench.busOp 0 (.channel 7) 0x58 [.write [g], .read 1]).2.setTmp 0 0).busOp 0 (.channel 7) 0x58
        [.write [g, 0x04]] = (.ok rx, s1)) ∧
      (∃ k s1, (scripted [.err .nak]).busOp 0 (.channel 7) 0x58 [.write [g], .read 1] = (.err k, s1)) ∧
      ∃ k s1, (((scripted [.ok [], .ok [0], .err .nak]).busOp 0 (.channel 7) 0x58 [.write [g], .read 1]).2.setTmp 0 0).busOp
        0 (.channel 7) 0x58 [.write [g, 0x04]] = (.err k, s1)) := by
  refine ⟨by decide, rfl, fun g hg => ?_⟩
  simp only [List.mem_cons, List.not_mem_nil, or_false] at hg
  rcases hg with rfl | rfl | rfl
  all_goals exact ⟨ends_ok (rx := [0]) (by decide), ends_ok (rx := []) (by decide), ends_err (k := .nak) (by decide),
    ends_err (k := .nak) (by decide)⟩

/-- The clauses of `StaleByteIsWrittenBack`: a command resumed right before a write that is not its last (with the
budget of one bus operation on a channel), and before its last; the write succeeds, or fails. -/
theorem witness_StaleByteIsWrittenBack :
    let resumed (i : Instr) (k n : Nat) (replies : List Reply) : State :=
      { inFlight i { atStart with idx := k, tmp := 0xFF } .free with turn := ⟨0, n⟩, env := (scripted replies).env }
    let ready (s : State) (i : Instr) : Prop :=
      s.turn.requester = 0 ∧ (s.req 0).cmd = some i ∧ (s.seq 0).started ∧ (s.seq 0).hung = false ∧
        (s.seq 0).selected = false ∧ 0 ∉ s.wait ∧ s.lock = .free
    let mode : Instr := .capIntoOutput ⟨0, 0, 1⟩
    let write (replies : List Reply) (g v : Byte) := (resumed mode 1 3 replies).busOp 0 (.channel 7) 0x58 [.write [g, v]]
    (∀ replies, ready (resumed mode 1 3 replies) mode ∧ ready (resumed mode 3 4 replies) mode) ∧
    (commandSteps bench.cfg mode)[1]? = some (.writeTmp (.channel 7) 0x58 0x12 0x02 true) ∧
    (commandSteps bench.cfg mode)[3]? = some (.writeTmp (.channel 7) 0x58 0x04 0x02 false) ∧
    3 + 1 = (commandSteps bench.cfg mode).length ∧
    (∃ rx s1, write [.ok [], .ok []] 0x12 0xFF = (.ok rx, s1)) ∧
    (∃ rx s1, write [.ok [], .ok []] 0x04 0xFD = (.ok rx, s1)) ∧
    ∃ k s1, write [.ok [], .err .nak] 0x04 0xFD = (.err k, s1) :=
  ⟨fun _ => ⟨⟨rfl, rfl, rfl, rfl, rfl, by simp [inFlight, bench, State.reset, State.resetWith], rfl⟩,
      ⟨rfl, rfl, rfl, rfl, rfl, by simp [inFlight, bench, State.reset, State.resetWith], rfl⟩⟩,
    by decide, by decide, by decide, ends_ok (rx := []) (by decide), ends_ok (rx := []) (by decide),
    ends_err (k := .nak) (by decide)⟩

/-- `PinSetDuty` and `PinFractionalDuty`. The duty writes: each succeeds on the bench; the fraction and the percent at the ends of their ranges. -/
theorem witness_dutyCommands :
    bench.unhindered 0 5 ∧ bench.mayIssue 0 1 ∧
    (∃ rx s1, bench.busOp 0 bench.cfg.expBus 0x58 [.write [0x2B, 0x80]] = (.ok rx, s1)) ∧
    (∃ rx s1, bench.busOp 0 bench.cfg.expBus 0x58 [.write [0x2B, 0xFF]] = (.ok rx, s1)) ∧
    1 ≤ (65535 : BitVec 16).toNat ∧ (65535 : BitVec 16).toNat ≤ (65535 : BitVec 16).toNat ∧
    ((0 : BitVec 16).toNat = 0 ∨ (0 : BitVec 16).toNat < (5 : BitVec 16).toNat) ∧
    (4 : BitVec 16).toNat < (5 : BitVec 16).toNat ∧ (100 : Byte).toNat ≤ 100 :=
  ⟨by decide, by decide, ends_ok (rx := []) (by decide), ends_ok (rx := []) (by decide), by decide, by decide,
    by decide, by decide, by decide⟩

/-- `DutyLaws` at its ends: the least denominator and numerator, and the greatest of each. -/
theorem witness_DutyLaws : (1 ≤ (1 : BitVec 16).toNat ∧ (0 : BitVec 16).toNat ≤ (1 : BitVec 16).toNat) ∧
    (1 ≤ (65535 : BitVec 16).toNat ∧ (65535 : BitVec 16).toNat ≤ (65535 : BitVec 16).toNat) ∧
    (1 ≤ 65535 ∧ 65535 * (1 : BitVec 16).toNat ≤ 65535) ∧ (100 : Byte).toNat ≤ 100 := by decide

theorem witness_BitLaws : (⟨0, 0, 0⟩ : Pin).bit ≠ (⟨2, 1, 7⟩ : Pin).bit ∧ 7 ≠ (⟨0, 0, 0⟩ : Pin).bit.val := by decide

theorem witness_ReferenceChipsTakeOneBit :
    bench.unhindered 0 8 ∧ bench.env.law = .reference ∧ (2 : Fin 3) ∉ bench.env.absent ∧
    ((true = true) ↔ PinMode.gpio = .gpio) ∧ ((false = true) ↔ PinDir.output = .input) ∧
    ((true = true) ↔ Level.high = .high) := by decide

/-- Two environments that differ in everything recorded. -/
theorem witness_RecordedChipsDoNotSteer :
    let s := scripted [.ok [], .ok [0x23]]
    let e : Environment := { s.env with
      muxsel := 0x55, fill := Vector.replicate 3 (.draw 4), regs := [(5, 1)], pointer := #v[1, 2, 3],
      pins := Vector.replicate 6 0x0F, absent := [1] }
    s.env.law = .general ∧ e.law = .general ∧ e.script = s.env.script ∧ e.draws = s.env.draws ∧
      ∃ t, exec (.chipInit 0) s = .next t := ⟨rfl, rfl, rfl, rfl, _, rfl⟩

theorem witness_PinMaxDuty_PinIdentity_SnapshotPinState : bench.mayIssue 0 1 := by decide

/-- Each conversion from a Free pin: the whole exchange succeeds on the bench, and fails where the second wire
transaction does. -/
theorem witness_CapabilityConversions :
    let p : Pin := ⟨0, 0, 2⟩
    let failing := scripted [.ok [], .err .nak]
    bench.unhindered 0 14 ∧ failing.unhindered 0 20 ∧ isDetectPin bench.cfg p = false ∧ bench.capIdle 0 p ∧
      bench.capOf p = .free ∧
    (∃ rx s1, second 0 p 0x04 false (bench.rmw 0 p 0x12 true) = (.ok rx, s1)) ∧
    (∃ rx s1, second 0 p 0x04 true (bench.rmw 0 p 0x12 true) = (.ok rx, s1)) ∧
    (∃ rx s1, bench.rmw 0 p 0x12 false = (.ok rx, s1)) ∧
    (∃ k s1, second 0 p 0x04 false (failing.rmw 0 p 0x12 true) = (.err k, s1)) :=
  ⟨by decide, scripted_unhindered _, by decide, bench_capIdle _ _, by decide, ends_ok (rx := []) (by decide),
    ends_ok (rx := []) (by decide), ends_ok (rx := []) (by decide), ends_err (k := .nak) (by decide)⟩

/-- Each use of a handle, with the tag it needs, and the exchange that succeeds. -/
theorem witness_CapabilityUses :
    let p : Pin := ⟨0, 0, 2⟩
    (∀ t, (benchCap p t).unhindered 0 8) ∧ isDetectPin bench.cfg p = false ∧ (∀ t, (benchCap p t).capIdle 0 p) ∧
    (benchCap p .output).capOf p = .output ∧
    (∃ rx s1, (benchCap p .output).busOp 0 (.channel 7) 0x58 [.write [0x02], .read 1] = (.ok rx, s1)) ∧
    (benchCap p .input).capOf p = .input ∧
    (∃ rx s1, (benchCap p .input).busOp 0 (.channel 7) 0x58 [.write [0x00], .read 1] = (.ok rx, s1)) ∧
    (benchCap p .led).capOf p = .led ∧
    (∃ rx s1, (benchCap p .led).busOp 0 (.channel 7) 0x58 [.write [0x26, 0xFF]] = (.ok rx, s1)) ∧
    (1 ≤ (1 : BitVec 16).toNat ∧ (1 : BitVec 16).toNat ≤ (1 : BitVec 16).toNat ∧ (100 : Byte).toNat ≤ 100) :=
  ⟨fun t => by cases t <;> decide, by decide, fun _ => bench_capIdle _ _, by decide, ends_ok (rx := [0]) (by decide),
    by decide, ends_ok (rx := [0xFF]) (by decide), by decide, ends_ok (rx := []) (by decide), by decide⟩

theorem witness_CapabilityRefusals :
    bench.mayIssue 0 1 ∧ capPin (.capInRead ⟨0, 1, 6⟩) = some ⟨0, 1, 6⟩ ∧ isDetectPin bench.cfg ⟨0, 1, 6⟩ ∧
    (∀ t, (benchCap ⟨0, 0, 2⟩ t).mayIssue 0 1 ∧ (benchCap ⟨0, 0, 2⟩ t).capIdle 0 ⟨0, 0, 2⟩ ∧
      (benchCap ⟨0, 0, 2⟩ t).capOf ⟨0, 0, 2⟩ = t) :=
  ⟨by decide, rfl, by decide, fun t => ⟨by cases t <;> decide, bench_capIdle _ _, by cases t <;> decide⟩⟩

/-- Both interlocks: a pin's handle, and the HEX unit, each busy with port 1's command. -/
theorem witness_InterlockedCommandsWait :
    let busy (j : Instr) : State := { bench with reqs := [Requester.idle 0, { cmd := some j, seq := atStart, res := [] }] }
    let a := busy (.capInRead ⟨0, 0, 2⟩)
    let b := busy (.hexSetEnabled 5 true)
    (a.mayIssue 0 20 ∧ (a.req 1).cmd = some (.capInRead ⟨0, 0, 2⟩) ∧ (a.seq 1).started ∧
      capPin (.capOutSet ⟨0, 0, 2⟩ .low) = some ⟨0, 0, 2⟩ ∧ capPin (.capLedDutyFrac ⟨0, 0, 2⟩ 5 4) = some ⟨0, 0, 2⟩ ∧
      capPin (.capInRead ⟨0, 0, 2⟩) = some ⟨0, 0, 2⟩ ∧
      isDetectPin a.cfg ⟨0, 0, 2⟩ = false) ∧
    (b.mayIssue 0 20 ∧ (b.req 1).cmd = some (.hexSetEnabled 5 true) ∧ (b.seq 1).started ∧
      isSetEnabled (.hexSetEnabled 5 true)) := by decide

theorem witness_SnapshotRead :
    let ops : List (BusHandle × Addr × List BusOp) :=
      [(.channel 7, 0x58, [.write [0x00, 0x01], .read 2]), (.channel 7, 0x59, [.write [0x00, 0x01], .read 2]),
        (.channel 7, 0x5A, [.write [0x00, 0x01], .read 2])]
    bench.unhindered 0 11 ∧ bench.cfg.expBus = .channel 7 ∧ (∃ rx s1, bench.busOps 0 ops [] = (.ok rx, s1)) ∧
    ∃ k s1, ({ bench with env := { bench.env with absent := [1] } } : State).busOps 0 ops [] = (.err k, s1) :=
  ⟨by decide, rfl, ends_ok (rx := [0xFF, 0xFF, 0xFF, 0xFF, 0xFF, 0xFF]) (by decide),
    ends_err (k := .nak) (by decide)⟩

/-- The clauses of `ButtonUpdate`: nothing observed before, another level, the same level. -/
theorem witness_ButtonUpdate :
    let s := { bench with btn := bench.btn.set 5 (some ⟨.pressed, 3⟩) }
    let low : Snapshot := ⟨0, 0, 0, 0, 0, 0⟩
    let high : Snapshot := ⟨0xFF, 0xFF, 0xFF, 0xFF, 0xFF, 0xFF⟩
    s.mayIssue 0 1 ∧ s.cfg.tsSampling = .perUpdate ∧ s.btn[(0 : Fin 6)] = none ∧
      s.btn[(5 : Fin 6)] = some ⟨.pressed, 3⟩ ∧ levelAt high s.cfg.buttonPin[(5 : Fin 6)] ∧
      levelAt low s.cfg.buttonPin[(5 : Fin 6)] = false := by decide

theorem witness_DurationAccessor :
    ({ button := 5, previous := some ⟨.pressed, 7⟩, now := ⟨.released, 9⟩ } : ButtonEvent).previous =
      some ⟨.pressed, 7⟩ := rfl

theorem witness_TimestampsNeverDecrease :
    (let c : Clock := { last := 5, script := [5, 18446744073709551615], draws := 0 }
     (c.last :: c.script).Pairwise (fun x y => x.toNat ≤ y.toNat)) := by decide

/-- Every clause of `SlotUpdate`: each stored state with the levels its clause is about. -/
theorem witness_SlotUpdate :
    let s := { bench with hex := #v[.disabled false, .disabled true, .untracked, .empty, .occupied, .untracked] }
    let low : Snapshot := ⟨0, 0, 0, 0, 0, 0⟩
    let high : Snapshot := ⟨0xFF, 0xFF, 0xFF, 0xFF, 0xFF, 0xFF⟩
    s.mayIssue 0 1 ∧ s.hexIdle 0 ∧ s.hex[(0 : Fin 6)] = .disabled false ∧ s.hex[(1 : Fin 6)] = .disabled true ∧
      s.hex[(2 : Fin 6)] = .untracked ∧ s.hex[(3 : Fin 6)] = .empty ∧ s.hex[(4 : Fin 6)] = .occupied ∧
      (∀ k : Fin 6, levelAt high s.cfg.hexDetectPin[k]) ∧ ∀ k : Fin 6, levelAt low s.cfg.hexDetectPin[k] = false :=
  ⟨by decide, bench_hexIdle 0, rfl, rfl, rfl, rfl, rfl, by decide, by decide⟩

/-- Enabling and disabling slot 0 succeed on the bench, and fail where the second wire transaction does. -/
theorem witness_SlotEnabling :
    let p : Pin := ⟨0, 1, 6⟩
    bench.unhindered 0 20 ∧ bench.hexIdle 0 ∧ bench.cfg.hexDetectPin[(0 : Fin 6)] = p ∧
    (∃ rx s1, second 0 p 0x04 true (bench.rmw 0 p 0x12 true) = (.ok rx, s1)) ∧
    (∃ rx s1, second 0 p 0x02 true (second 0 p 0x04 false (bench.rmw 0 p 0x12 true)) = (.ok rx, s1)) ∧
    ∃ k s1, second 0 p 0x04 true ((scripted [.ok [], .err .nak]).rmw 0 p 0x12 true) = (.err k, s1) :=
  ⟨by decide, bench_hexIdle 0, rfl, ends_ok (rx := []) (by decide), ends_ok (rx := []) (by decide),
    ends_err (k := .nak) (by decide)⟩

theorem witness_DisabledIsReportedOnce :
    let s := { bench with hex := bench.hex.set 5 (.disabled true) }
    s.hex[(5 : Fin 6)] = .disabled true ∧ (∃ t, exec (.hexUpdate ⟨0, 0, 0, 0, 0, 0⟩) s = .next t) ∧
      ∀ e, Instr.hexUpdate ⟨0, 0, 0, 0, 0, 0⟩ ≠ .hexSetEnabled 5 e :=
  ⟨rfl, ⟨_, rfl⟩, fun _ h => by cases h⟩

end Sys2Proof.Tests
end

section
/-! SUPPORT. A bus operation read in one piece: what it keeps, and how long its answer is; and the rules of the two
updates of a port that a command in progress is compared by. -/

namespace Sys2Proof.Machine

/-! ## One bus operation in one piece -/

/-- A wire transaction writes nothing but the environment and the observer's trace (R60). -/
theorem State.phys_keeps {s s1 : State} {r : Nat} {h : BusHandle} {role : WireRole} {a : Addr} {ops : List BusOp}
    {answer : Reply} (e : s.phys r h role a ops = (answer, s1)) :
    s1.reqs = s.reqs ∧ s1.wait = s.wait ∧ s1.lock = s.lock ∧ s1.cfg = s.cfg := by
  cases e; exact ⟨rfl, rfl, rfl, rfl⟩

/-- A bus operation in one piece is one wire transaction or two, so it writes nothing but the environment and the
observer's trace (R132). -/
theorem State.busOp_keeps {s s1 : State} {r : Nat} {h : BusHandle} {a : Addr} {ops : List BusOp} {answer : Reply}
    (e : s.busOp r h a ops = (answer, s1)) :
    s1.reqs = s.reqs ∧ s1.wait = s.wait ∧ s1.lock = s.lock ∧ s1.cfg = s.cfg := by
  cases h with
  | direct => exact State.phys_keeps e
  | channel n =>
    rcases hp : s.phys r (.channel n) .select muxAddr [.write [selectByte n]] with ⟨select, s2⟩
    obtain ⟨hreqs, hwait, hlock, hcfg⟩ := State.phys_keeps hp
    simp only [State.busOp, hp] at e
    cases select with
    | ok _ => rw [← hreqs, ← hwait, ← hlock, ← hcfg]; exact State.phys_keeps e
    | err _ | never => cases e; exact ⟨hreqs, hwait, hlock, hcfg⟩

/-- An acknowledged wire transaction delivers exactly the bytes its reads ask for (R60). -/
theorem State.phys_length {s s1 : State} {r : Nat} {h : BusHandle} {role : WireRole} {a : Addr} {ops : List BusOp}
    {rx : List Byte} (e : s.phys r h role a ops = (.ok rx, s1)) : rx.length = readLength ops :=
  Environment.answer_length (congrArg Prod.fst e)

/-- A bus operation delivers exactly the bytes its reads ask for: those of its payload (R60, R132). -/
theorem State.busOp_length {s s1 : State} {r : Nat} {h : BusHandle} {a : Addr} {ops : List BusOp} {rx : List Byte}
    (e : s.busOp r h a ops = (.ok rx, s1)) : rx.length = readLength ops := by
  cases h with
  | direct => exact State.phys_length e
  | channel n =>
    rcases hp : s.phys r (.channel n) .select muxAddr [.write [selectByte n]] with ⟨select, s2⟩
    simp only [State.busOp, hp] at e
    cases select with
    | ok _ => exact State.phys_length e
    | err _ | never => cases e

/-- The read of one register delivers one byte (R61 W2). -/
theorem State.busOp_readRegister {s s1 : State} {r : Nat} {h : BusHandle} {a : Addr} {g : Byte} {rx : List Byte}
    (e : s.busOp r h a [.write [g], .read 1] = (.ok rx, s1)) : ∃ v, rx = [v] :=
  List.length_eq_one_iff.1 (State.busOp_length e)

/-- The write of one register delivers no byte (R61 W3). -/
theorem State.busOp_writeRegister {s s1 : State} {r : Nat} {h : BusHandle} {a : Addr} {g v : Byte} {rx : List Byte}
    (e : s.busOp r h a [.write [g, v]] = (.ok rx, s1)) : rx = [] :=
  List.eq_nil_of_length_eq_zero (State.busOp_length e)

/-! ## Ports -/

theorem State.setReq_seq (s : State) (r : Nat) (q : Requester) (h : r < s.reqs.length) :
    (s.setReq r q).seq r = q.seq := by rw [State.seq, State.req_setReq_self s r q h]

theorem State.setTmp_tmp (s : State) (r : Nat) (v : Byte) (h : r < s.reqs.length) :
    ((s.setTmp r v).seq r).tmp = v := by simp [State.setTmp, State.setSeq, State.setReq_seq _ _ _ h]

/-- A response replaces the whole port but for `TMP`, so it forgets what the port held before. -/
theorem State.setReq_respond (s : State) (r : Nat) (q : Requester) (bytes : List Byte) (h : r < s.reqs.length)
    (htmp : q.seq.tmp = (s.seq r).tmp) : (s.setReq r q).respond r bytes = s.respond r bytes := by
  simp only [State.respond, State.setReq_setReq, State.setReq_seq s r q h, htmp, State.setReq_responses]

/-- The end of a command and an update of a port do not see each other. -/
theorem commandFinish_setReq (i : Instr) (held : List Byte) (s : State) (r : Nat) (q : Requester) :
    commandFinish i held (s.setReq r q) = ((commandFinish i held s).1.setReq r q, (commandFinish i held s).2) := by
  cases i <;> simp only [commandFinish, finishHeld, finishNone, finishWith, finishCap, finishBit, finishButtons,
    finishSlots, finishSetEnabled, State.setCap, State.setReq]

end Sys2Proof.Machine
end

section
/-! SUPPORT. A command that nothing hinders runs as its pseudocode reads (R24, R132, R152): the micro-stepped machine
goes through the states `inCommand` and `inOperation`, which are the states of the one-piece reading but for the port
and the lock. -/

namespace Sys2Proof.Machine

/-! ## States of a command in progress -/

/-- Requester `r` has a port, does not wait, and finds the lock free. -/
structure State.Unblocked (s : State) (r : Nat) : Prop where
  port : r < s.reqs.length
  notWaiting : r ∉ s.wait
  lockFree : s.lock = .free

/-- Requester `r` is in its command `i` before bus operation `idx`, with the bytes `held` for its response. -/
def State.inCommand (s : State) (r : Nat) (i : Instr) (idx : Nat) (held : List Byte) : State :=
  s.setReq r ⟨some i, ⟨true, idx, false, false, (s.seq r).tmp, held⟩, (s.req r).res⟩

/-- Requester `r` is inside bus operation `idx` of its command `i`: it holds the lock, before its select write or
after it. -/
def State.inOperation (s : State) (r : Nat) (i : Instr) (idx : Nat) (held : List Byte) (selected : Bool) : State :=
  { s.setReq r ⟨some i, ⟨true, idx, selected, false, (s.seq r).tmp, held⟩, (s.req r).res⟩ with lock := .held r }

/-- How many micro-steps a bus operation takes: the lock, on a channel the select write, the payload (R132). -/
def microStepsOn : BusHandle → Nat
  | .direct => 2
  | .channel _ => 3

/-- Up to `n` micro-steps of requester `r` on command `i`, by its row of the three tables. -/
abbrev State.turnOn (s : State) (r : Nat) (i : Instr) (P : Params) (n : Nat) : State :=
  State.advance r (commandAdmission i) (commandSteps P i) (commandFinish i) n s

theorem microStepsOn_le (h : BusHandle) : microStepsOn h ≤ 3 := by cases h <;> simp [microStepsOn]

section
variable {s s1 : State} {r idx n : Nat} {i : Instr} {P : Params} {held rx : List Byte} {b : BusStep} {sel : Bool}
  {k : TransportError}

theorem State.Unblocked.phys {h : BusHandle} {role : WireRole} {a : Addr} {ops : List BusOp} {answer : Reply}
    (hu : s.Unblocked r) (e : s.phys r h role a ops = (answer, s1)) : s1.Unblocked r := by
  obtain ⟨hreqs, hwait, hlock, -⟩ := State.phys_keeps e
  exact ⟨hreqs ▸ hu.port, hwait ▸ hu.notWaiting, hlock ▸ hu.lockFree⟩

theorem State.Unblocked.busOp {h : BusHandle} {a : Addr} {ops : List BusOp} {answer : Reply} (hu : s.Unblocked r)
    (e : s.busOp r h a ops = (answer, s1)) : s1.Unblocked r := by
  obtain ⟨hreqs, hwait, hlock, -⟩ := State.busOp_keeps e
  exact ⟨hreqs ▸ hu.port, hwait ▸ hu.notWaiting, hlock ▸ hu.lockFree⟩

theorem State.Unblocked.keepTmp (hu : s.Unblocked r) (b : BusStep) (rx : List Byte) :
    (b.keepTmp rx r s).Unblocked r := by
  cases b with
  | readTmp => exact ⟨by simpa [BusStep.keepTmp, State.setTmp] using hu.port, hu.notWaiting, hu.lockFree⟩
  | forward | readKept | writeReg | writeTmp | readPorts => exact hu

theorem State.inCommand_seq (hr : r < s.reqs.length) :
    (s.inCommand r i idx held).seq r = ⟨true, idx, false, false, (s.seq r).tmp, held⟩ := State.setReq_seq s r _ hr

theorem State.inOperation_seq (hr : r < s.reqs.length) :
    (s.inOperation r i idx held sel).seq r = ⟨true, idx, sel, false, (s.seq r).tmp, held⟩ := State.setReq_seq s r _ hr

theorem State.inCommand_cmd (hr : r < s.reqs.length) : ((s.inCommand r i idx held).req r).cmd = some i :=
  congrArg Requester.cmd (State.req_setReq_self s r _ hr)

theorem State.inOperation_cmd (hr : r < s.reqs.length) : ((s.inOperation r i idx held sel).req r).cmd = some i :=
  congrArg Requester.cmd (State.req_setReq_self s r _ hr)

/-- Releasing the lock goes back to the one-piece state, whose lock is free. -/
theorem State.inOperation_release (hu : s.Unblocked r) :
    (s.inOperation r i idx held sel).release r =
      s.setReq r ⟨some i, ⟨true, idx, sel, false, (s.seq r).tmp, held⟩, (s.req r).res⟩ := by
  simp only [State.release, State.inOperation, if_true, State.setReq, ← hu.lockFree]

theorem State.inOperation_raise (hu : s.Unblocked r) :
    (s.inOperation r i idx held sel).raise r k = s.respond r [errorCode k] := by
  rw [State.raise, State.inOperation_release hu]
  exact State.setReq_respond s r _ _ hu.port rfl

/-- What a completed bus operation leaves in the sequencer is what the one-piece reading keeps (R24, R25). -/
theorem BusStep.absorb_eq_keep (b : BusStep) (hr : r < s.reqs.length) :
    s.setReq r ⟨some i, b.absorb rx ⟨true, idx, sel, false, (s.seq r).tmp, held⟩, (s.req r).res⟩ =
      (b.keepTmp rx r s).inCommand r i (idx + 1) (held ++ b.kept rx) := by
  cases b with
  | readTmp => simp [BusStep.absorb, BusStep.keepTmp, BusStep.kept, State.inCommand, State.setTmp, State.setSeq,
      State.setReq_seq, hr]
  | forward | readKept | writeReg | writeTmp | readPorts =>
    simp [BusStep.absorb, BusStep.keepTmp, BusStep.kept, State.inCommand]

/-! ## The micro-steps of one bus operation -/

theorem State.turnOn_of_cmd (hc : (s.req r).cmd = some i) : s.turnOn r i P (n + 1) = (s.micro r i P).turnOn r i P n := by
  simp [State.turnOn, State.advance, hc]

theorem State.turnOn_of_idle (hc : (s.req r).cmd = none) : s.turnOn r i P n = s := by
  cases n <;> simp [State.turnOn, State.advance, hc]

theorem State.turnOn_respond (hr : r < s.reqs.length) (bytes : List Byte) :
    (s.respond r bytes).turnOn r i P n = s.respond r bytes :=
  State.turnOn_of_idle (by rw [State.respond_req s r bytes hr])

/-- Before a bus operation a requester takes the free lock (R131, R132). -/
theorem State.inCommand_micro (hu : s.Unblocked r) (hb : (commandSteps P i)[idx]? = some b) :
    (s.inCommand r i idx held).micro r i P = s.inOperation r i idx held false := by
  have hlock : (s.inCommand r i idx held).lock = .free := hu.lockFree
  have hwait : r ∉ (s.inCommand r i idx held).wait := hu.notWaiting
  simp only [State.micro, State.microStep, State.inCommand_seq hu.port, hb, hwait]
  simp only [State.busMicro, State.acquire, hlock]
  simp [State.inCommand, State.inOperation]

theorem State.inOperation_micro (hu : s.Unblocked r) (hb : (commandSteps P i)[idx]? = some b) :
    (s.inOperation r i idx held sel).micro r i P = (s.inOperation r i idx held sel).busMicro r b := by
  have hwait : r ∉ (s.inOperation r i idx held sel).wait := hu.notWaiting
  simp [State.micro, State.microStep, State.inOperation_seq hu.port, hb, hwait]

theorem State.inOperation_phys (h : BusHandle) (role : WireRole) (a : Addr) (ops : List BusOp) :
    (s.inOperation r i idx held sel).phys r h role a ops =
      ((s.phys r h role a ops).1, (s.phys r h role a ops).2.inOperation r i idx held sel) := rfl

/-- The select write of a bus operation on a channel: acknowledged, it leaves the payload to be sent; failed, it ends
the command, and the payload is never sent (R132, R262). -/
theorem State.inOperation_select {c : Fin 8} {answer : Reply} (hu : s.Unblocked r) (hh : b.handle = .channel c)
    (e : s.phys r (.channel c) .select muxAddr [.write [selectByte c]] = (answer, s1)) :
    (∀ rx, answer = .ok rx →
      (s.inOperation r i idx held false).busMicro r b = s1.inOperation r i idx held true) ∧
    (∀ k, answer = .err k → (s.inOperation r i idx held false).busMicro r b = s1.respond r [errorCode k]) := by
  have hu1 := hu.phys e
  rcases State.busMicro_cases (s.inOperation r i idx held false) r b with
    ⟨hl, _⟩ | ⟨_, d, hd, _, answer', t, ht, h⟩ | ⟨_, hs, _⟩
  · exact absurd rfl hl
  · obtain rfl : c = d := by simpa [hh] using hd
    rw [hh, State.inOperation_phys, e] at ht
    cases ht
    constructor
    · rintro rx rfl
      obtain h : _ = (s1.inOperation r i idx held false).setSeq r _ := by simpa using h
      rw [h, State.inOperation_seq hu1.port]
      simp [State.inOperation, State.setSeq, State.setReq, State.req, hu1.port]
    · rintro k rfl
      obtain h : _ = (s1.inOperation r i idx held false).raise r k := by simpa using h
      rw [h, State.inOperation_raise hu1]
  · rw [hh, State.inOperation_seq hu.port] at hs
    simp at hs

/-- The payload of a bus operation: acknowledged, it releases the lock and moves the command on to its next bus
operation; failed, it ends the command (R131, R132, R262). -/
theorem State.inOperation_payload {answer : Reply} (hu : s.Unblocked r) (hh : b.handle = .direct ∨ sel = true)
    (e : s.phys r b.handle .payload b.addr (b.payload (s.seq r).tmp) = (answer, s1)) :
    (∀ rx, answer = .ok rx → (s.inOperation r i idx held sel).busMicro r b =
      (b.keepTmp rx r s1).inCommand r i (idx + 1) (held ++ b.kept rx)) ∧
    (∀ k, answer = .err k → (s.inOperation r i idx held sel).busMicro r b = s1.respond r [errorCode k]) := by
  have hu1 := hu.phys e
  rcases State.busMicro_cases (s.inOperation r i idx held sel) r b with
    ⟨hl, _⟩ | ⟨_, d, hd, hs, _⟩ | ⟨_, _, answer', t, ht, h⟩
  · exact absurd rfl hl
  · rw [State.inOperation_seq hu.port] at hs
    rcases hh with hdirect | rfl
    · rw [hd] at hdirect; cases hdirect
    · cases hs
  · rw [State.inOperation_seq hu.port, State.inOperation_phys, e] at ht
    cases ht
    constructor
    · rintro rx rfl
      obtain h : _ = ((s1.inOperation r i idx held sel).release r).setSeq r _ := by simpa using h
      rw [h, State.inOperation_seq hu1.port, State.inOperation_release hu1,
        ← BusStep.absorb_eq_keep (sel := sel) b hu1.port]
      simp [State.setSeq, hu1.port]
    · rintro k rfl
      obtain h : _ = (s1.inOperation r i idx held sel).raise r k := by simpa using h
      rw [h, State.inOperation_raise hu1]

/-- The payload as the next micro-step of a turn: the turn goes on before the next bus operation, or the command has
ended. -/
theorem State.turnOn_payload {answer : Reply} (hu : s.Unblocked r) (hb : (commandSteps P i)[idx]? = some b)
    (hh : b.handle = .direct ∨ sel = true)
    (e : s.phys r b.handle .payload b.addr (b.payload (s.seq r).tmp) = (answer, s1)) :
    (∀ rx, answer = .ok rx → (s.inOperation r i idx held sel).turnOn r i P (n + 1) =
      ((b.keepTmp rx r s1).inCommand r i (idx + 1) (held ++ b.kept rx)).turnOn r i P n) ∧
    (∀ k, answer = .err k → (s.inOperation r i idx held sel).turnOn r i P (n + 1) = s1.respond r [errorCode k]) := by
  obtain ⟨hok, herr⟩ := State.inOperation_payload (i := i) (idx := idx) (held := held) hu hh e
  rw [State.turnOn_of_cmd (State.inOperation_cmd hu.port), State.inOperation_micro hu hb]
  refine ⟨fun rx ha => by rw [hok rx ha], fun k ha => ?_⟩
  rw [herr k ha, State.turnOn_respond (hu.phys e).port]

/-- A whole bus operation: where the one-piece reading delivers, the command goes on before its next bus operation;
where it fails, the command has ended (R132). -/
theorem State.turnOn_busOperation {answer : Reply} (hu : s.Unblocked r) (hb : (commandSteps P i)[idx]? = some b)
    (e : s.busOp r b.handle b.addr (b.payload (s.seq r).tmp) = (answer, s1)) :
    (∀ rx, answer = .ok rx → (s.inCommand r i idx held).turnOn r i P (n + microStepsOn b.handle) =
      ((b.keepTmp rx r s1).inCommand r i (idx + 1) (held ++ b.kept rx)).turnOn r i P n) ∧
    (∀ k, answer = .err k → (s.inCommand r i idx held).turnOn r i P (n + microStepsOn b.handle) =
      s1.respond r [errorCode k]) := by
  have takeLock (m : Nat) : (s.inCommand r i idx held).turnOn r i P (m + 1) =
      (s.inOperation r i idx held false).turnOn r i P m := by
    rw [State.turnOn_of_cmd (State.inCommand_cmd hu.port), State.inCommand_micro hu hb]
  cases hh : b.handle with
  | direct =>
    rw [hh, State.busOp, ← hh] at e
    rw [microStepsOn, takeLock]
    exact State.turnOn_payload hu hb (.inl hh) e
  | channel c =>
    rcases hp : s.phys r (.channel c) .select muxAddr [.write [selectByte c]] with ⟨select, s2⟩
    obtain ⟨hok, herr⟩ := State.inOperation_select (i := i) (idx := idx) (held := held) hu hh hp
    rw [microStepsOn, takeLock, State.turnOn_of_cmd (State.inOperation_cmd hu.port), State.inOperation_micro hu hb]
    simp only [hh, State.busOp, hp] at e
    cases select with
    | ok rx2 =>
      rw [← hh, ← State.seq_of_reqs_eq (State.phys_keeps hp).1] at e
      rw [hok rx2 rfl]
      exact State.turnOn_payload (hu.phys hp) hb (.inr rfl) e
    | err k2 =>
      cases e
      refine ⟨fun _ ha => (by cases ha), fun k ha => ?_⟩
      rw [herr k2 rfl, State.turnOn_respond (hu.phys hp).port]
      cases ha; rfl
    | never => cases e; exact ⟨fun _ ha => (by cases ha), fun _ ha => (by cases ha)⟩

/-- After its last bus operation a command ends with its local update and its response (R23, R73). -/
theorem State.turnOn_complete (hu : s.Unblocked r) (hb : (commandSteps P i)[idx]? = none) :
    (s.inCommand r i idx held).turnOn r i P (n + 1) =
      (commandFinish i held s).1.respond r (0x00 :: (commandFinish i held s).2) := by
  have hwait : r ∉ (s.inCommand r i idx held).wait := hu.notWaiting
  have hreqs := (commandFinish_keeps i held s).1
  have hr : r < (commandFinish i held s).1.reqs.length := by rw [hreqs]; exact hu.port
  have hmicro : (s.inCommand r i idx held).micro r i P = (s.inCommand r i idx held).complete r (commandFinish i) := by
    simp [State.micro, State.microStep, State.inCommand_seq hu.port, hb, hwait]
  have hcomplete : (s.inCommand r i idx held).complete r (commandFinish i) =
      (commandFinish i held s).1.respond r (0x00 :: (commandFinish i held s).2) := by
    rw [State.complete, State.inCommand_seq hu.port, State.inCommand, commandFinish_setReq]
    exact State.setReq_respond _ r _ _ hr (by rw [State.seq_of_reqs_eq hreqs])
  rw [State.turnOn_of_cmd (State.inCommand_cmd hu.port), hmicro, hcomplete, State.turnOn_respond hr]

/-- The rest of a command, from any of its bus operations on, by induction on the bus operations still ahead: a turn
that is long enough ends it as the one-piece reading of these operations says (R24, R249). -/
theorem State.turnOn_runSteps (rest : List BusStep) (hu : s.Unblocked r) (hrest : (commandSteps P i).drop idx = rest)
    (hn : 3 * rest.length + 1 ≤ n) :
    (∀ rx s1, s.runSteps r rest held = (.ok rx, s1) → (s.inCommand r i idx held).turnOn r i P n =
      (commandFinish i rx s1).1.respond r (0x00 :: (commandFinish i rx s1).2)) ∧
    (∀ k s1, s.runSteps r rest held = (.err k, s1) →
      (s.inCommand r i idx held).turnOn r i P n = s1.respond r [errorCode k]) := by
  induction rest generalizing s idx held n with
  | nil =>
    have hb : (commandSteps P i)[idx]? = none := List.getElem?_eq_none (List.drop_eq_nil_iff.1 hrest)
    obtain ⟨n, rfl⟩ : ∃ m, n = m + 1 := ⟨n - 1, by omega⟩
    rw [State.turnOn_complete hu hb]
    constructor <;> intro _ _ e <;> cases e
    rfl
  | cons b rest ih =>
    have hb : (commandSteps P i)[idx]? = some b := by
      have := congrArg (·[0]?) hrest
      simpa using this
    have hnext : (commandSteps P i).drop (idx + 1) = rest := by rw [← List.tail_drop, hrest, List.tail_cons]
    have hmicro := microStepsOn_le b.handle
    rw [List.length_cons] at hn
    obtain ⟨m, rfl⟩ : ∃ m, n = m + microStepsOn b.handle := ⟨n - microStepsOn b.handle, by omega⟩
    rcases hop : s.busOp r b.handle b.addr (b.payload (s.seq r).tmp) with ⟨answer, s2⟩
    obtain ⟨hok, herr⟩ := State.turnOn_busOperation (held := held) (n := m) hu hb hop
    simp only [State.runSteps, hop]
    cases answer with
    | ok rx =>
      rw [hok rx rfl]
      exact ih ((hu.busOp hop).keepTmp b rx) hnext (by omega)
    | err k =>
      rw [herr k rfl]
      constructor <;> intro _ _ e <;> cases e
      rfl
    | never => constructor <;> intro _ _ e <;> cases e

end

/-! ## The whole turn of a command just issued -/

/-- Loading a command on the requester's own port changes no admission: the interlocks look at the other ports, and
nothing else that admission looks at is written (R73, R183). -/
theorem commandAdmission_load (i j : Instr) (s : State) (r : Nat) :
    commandAdmission i (s.load r j) r = commandAdmission i s r := by
  have hother (test : Instr → Bool) : (s.load r j).otherInProgress r test = s.otherInProgress r test := by
    simp only [State.otherInProgress, State.load_length]
    refine congrArg (List.any _) (funext fun k => ?_)
    by_cases hk : k = r
    · simp [hk]
    · simp only [State.seq, State.load_req_ne s r k j hk]
  have hcap (p : Pin) (allowed : CapTag → Bool) : (s.load r j).admitCap r p allowed = s.admitCap r p allowed := by
    simp only [State.admitCap, hother, State.load_cfg, State.capOf, State.load_cap]
  have hhex : (s.load r j).admitHex r = s.admitHex r := by simp only [State.admitHex, hother]
  cases i <;> simp only [commandAdmission, hcap, hhex]

/-- A requester that may issue a command takes it and has its turn on it (R22, R24). -/
theorem exec_of_mayIssue {s : State} {r n : Nat} (i : Instr) (h : s.mayIssue r n) :
    exec i s = .next ((s.load r i).turnOn r i s.cfg s.turn.budget) := by
  obtain ⟨hturn, hr, hcmd, -, -⟩ := h
  rw [exec_eq, State.runCommand, hturn, if_pos hr, hcmd]

theorem State.load_seq {s : State} {r : Nat} (i : Instr) (hr : r < s.reqs.length) :
    (s.load r i).seq r = Seq.cleared (s.seq r).tmp := by rw [State.seq, State.load_req s r i hr]

/-- A command without bus operations is a single atomic step, whoever holds the lock (R73). -/
theorem exec_of_no_steps {s : State} {r : Nat} {i : Instr} (h : s.mayIssue r 1)
    (ha : commandAdmission i s r = .admitted) (hnil : commandSteps s.cfg i = []) :
    exec i s = .next ((commandFinish i [] s).1.respond r (0x00 :: (commandFinish i [] s).2)) := by
  have ⟨_, hr, _, hwait, hbudget⟩ := h
  have hreqs := (commandFinish_keeps i [] s).1
  have hrf : r < (commandFinish i [] s).1.reqs.length := by rw [hreqs]; exact hr
  obtain ⟨n, hn⟩ : ∃ n, s.turn.budget = n + 1 := ⟨s.turn.budget - 1, by omega⟩
  have hcmd : ((s.load r i).req r).cmd = some i := by rw [State.load_req s r i hr]
  have hmicro : (s.load r i).micro r i s.cfg = (s.load r i).complete r (commandFinish i) := by
    simp [State.micro, State.microStep, State.load_seq i hr, Seq.cleared, hwait, commandAdmission_load, ha, hnil]
  have hcomplete : (s.load r i).complete r (commandFinish i) =
      (commandFinish i [] s).1.respond r (0x00 :: (commandFinish i [] s).2) := by
    rw [State.complete, State.load_seq i hr, Seq.cleared, State.load, commandFinish_setReq]
    exact State.setReq_respond _ r _ _ hrf (by rw [State.seq_of_reqs_eq hreqs]; rfl)
  rw [exec_of_mayIssue i h, hn, State.turnOn_of_cmd hcmd, hmicro, hcomplete, State.turnOn_respond hrf]

/-- With the lock free, a command that is admitted ends as the one-piece reading of its bus operations says
(R24, R132, R249). -/
theorem exec_endsAs_runSteps {s : State} {r : Nat} {i : Instr}
    (h : s.unhindered r (3 * (commandSteps s.cfg i).length + 2)) (ha : commandAdmission i s r = .admitted)
    (hne : commandSteps s.cfg i ≠ []) :
    s.endsAs r i (s.runSteps r (commandSteps s.cfg i) []) (commandFinish i) := by
  obtain ⟨hissue, hlock⟩ := h
  have ⟨_, hr, _, hwait, hbudget⟩ := hissue
  obtain ⟨n, hn⟩ : ∃ n, s.turn.budget = n + 1 := ⟨s.turn.budget - 1, by omega⟩
  have hcmd : ((s.load r i).req r).cmd = some i := by rw [State.load_req s r i hr]
  have hstart : (s.load r i).setSeq r ⟨true, 0, false, false, (s.seq r).tmp, []⟩ = s.inCommand r i 0 [] := by
    simp [State.setSeq, State.load, State.inCommand, hr]
  have hadmit : (s.load r i).micro r i s.cfg = s.inCommand r i 0 [] := by
    simp [State.micro, State.microStep, State.load_seq i hr, Seq.cleared, hwait, commandAdmission_load, ha, hne, hstart]
  have hexec : exec i s = .next ((s.inCommand r i 0 []).turnOn r i s.cfg n) := by
    rw [exec_of_mayIssue i hissue, hn, State.turnOn_of_cmd hcmd, hadmit]
  rw [State.endsAs, hexec]
  obtain ⟨hok, herr⟩ := State.turnOn_runSteps (idx := 0) (n := n) (held := []) (commandSteps s.cfg i)
    ⟨hr, hwait, hlock⟩ rfl (by omega)
  exact ⟨fun rx s1 e => congrArg _ (hok rx s1 e), fun k s1 e => congrArg _ (herr k s1 e)⟩

end Sys2Proof.Machine
end

section
/-! SUPPORT. The operand fields and the formats of the register driver's packets, read backwards: a packet that decodes
is the packet of its command (30_encoding.md R99 to R102, R110). -/

namespace Sys2Proof.Laws

/-! ## Operand fields -/

theorem busselByte_of_readBussel {b : Byte} {h : BusHandle} (e : readBussel b = .ok h) : busselByte h = b := by
  unfold readBussel at e
  split at e
  · cases e; simp [busselByte]
  · split at e
    · rename_i h8
      cases e; exact (BitVec.eq_of_toNat_eq h8).symm
    · cases e

theorem addrByte_of_readAddr {b : Byte} {a : Addr} (e : readAddr b = .ok a) : addrByte a = b := by
  unfold readAddr at e
  split at e
  · cases e
    apply BitVec.eq_of_toNat_eq
    simp only [addrByte, BitVec.toNat_ofNat]
    omega
  · cases e

theorem pidByte_of_readPid {b : Byte} {p : Pin} (e : readPid b = .ok p) : pidByte p = b := by
  unfold readPid at e
  split at e
  · cases e
    apply BitVec.eq_of_toNat_eq
    simp only [pidByte, BitVec.toNat_ofNat]
    omega
  · cases e

/-- A one-bit operand that is read is the first meaning of 0 or the second of 1 (R110). -/
theorem readBit_ok {α : Type} {zero one x : α} {b : Byte} (e : readBit zero one b = .ok x) :
    (b = 0 ∧ x = zero) ∨ (b = 1 ∧ x = one) := by
  unfold readBit at e
  split at e
  · rename_i h0
    cases e; exact .inl ⟨BitVec.eq_of_toNat_eq h0, rfl⟩
  · rename_i h1
    cases e; exact .inr ⟨BitVec.eq_of_toNat_eq h1, rfl⟩
  · cases e

theorem modeByte_of_readBit {b : Byte} {m : PinMode} (e : readBit PinMode.led .gpio b = .ok m) : modeByte m = b := by
  rcases readBit_ok e with ⟨rfl, rfl⟩ | ⟨rfl, rfl⟩ <;> rfl

theorem dirByte_of_readBit {b : Byte} {d : PinDir} (e : readBit PinDir.output .input b = .ok d) : dirByte d = b := by
  rcases readBit_ok e with ⟨rfl, rfl⟩ | ⟨rfl, rfl⟩ <;> rfl

/-! ## Formats -/

/-- The fields that open every bus format are those of the command (R101). -/
theorem readTarget_ok {mk : BusHandle → Addr → Instr} {b a : Byte} {i : Instr} (e : readTarget mk b a = .ok i) :
    ∃ h d, i = mk h d ∧ busselByte h = b ∧ addrByte d = a := by
  unfold readTarget at e
  cases hb : readBussel b with
  | error _ => rw [hb] at e; cases e
  | ok h =>
    cases ha : readAddr a with
    | error _ => rw [hb, Except.bind, ha] at e; cases e
    | ok d =>
      rw [hb, Except.bind, ha] at e
      cases e
      exact ⟨h, d, rfl, busselByte_of_readBussel hb, addrByte_of_readAddr ha⟩

/-- Format `FR` (R101). -/
theorem readFR_ok {mk : BusHandle → Addr → Byte → Instr} {bs : List Byte} {i : Instr} (e : readFR mk bs = .ok i) :
    ∃ h a g, i = mk h a g ∧ bs = [busselByte h, addrByte a, g] := by
  unfold readFR at e
  split at e
  · obtain ⟨h, a, rfl, rfl, rfl⟩ := readTarget_ok e
    exact ⟨h, a, _, rfl, rfl⟩
  · cases e

/-- Format `FRW` (R101). -/
theorem readFRW_ok {mk : BusHandle → Addr → Byte → Byte → Instr} {bs : List Byte} {i : Instr}
    (e : readFRW mk bs = .ok i) : ∃ h a g v, i = mk h a g v ∧ bs = [busselByte h, addrByte a, g, v] := by
  unfold readFRW at e
  split at e
  · obtain ⟨h, a, rfl, rfl, rfl⟩ := readTarget_ok e
    exact ⟨h, a, _, _, rfl, rfl⟩
  · cases e

/-- Format `FPV`, for any reading of its `VAL` byte (R101, R110). -/
theorem readFPV_ok {α : Type} {val : Byte → Except DecodeError α} {mk : Pin → α → Instr} {bs : List Byte} {i : Instr}
    (e : readFPV val mk bs = .ok i) : ∃ p x v, i = mk p x ∧ val v = .ok x ∧ bs = [pidByte p, v] := by
  unfold readFPV at e
  split at e
  · rename_i b v
    cases hp : readPid b with
    | error _ => rw [hp] at e; cases e
    | ok p =>
      cases hv : val v with
      | error _ => rw [hp, Except.bind, hv] at e; cases e
      | ok x =>
        rw [hp, Except.bind, hv] at e
        cases e
        exact ⟨p, x, v, rfl, hv, by rw [pidByte_of_readPid hp]⟩
  · cases e

end Sys2Proof.Laws

namespace Sys2Proof.Machine

/-- Where every packet with an opcode that decodes is the packet of a well-formed command, a packet with this opcode
that is the packet of no command is answered `ILLEGAL` (R112). -/
theorem malformedIsIllegal_of_decode {op : Byte}
    (h : ∀ rest i, decode (op :: rest) = .ok i → i.wf = true ∧ op :: rest = encode i) : malformedIsIllegal op := by
  intro s r n rest hready hnone
  rw [State.present, if_pos hready]
  cases hd : decode (op :: rest) with
  | error _ => rfl
  | ok i =>
    obtain ⟨hwf, henc⟩ := h rest i hd
    exact absurd henc (hnone i hwf)

end Sys2Proof.Machine
end

section
/-! SUPPORT. The register driver's commands (41_register_driver.md): their bus operations in one piece, the registers
and bits they name, and that none of them touches `CAP`. -/

namespace Sys2Proof.Machine

/-! ## Bus operations in one piece -/

section
variable {s s1 : State} {r : Nat} {b : BusStep} {rest : List BusStep} {held rx : List Byte} {k : TransportError}

theorem State.runSteps_cons_ok (e : s.busOp r b.handle b.addr (b.payload (s.seq r).tmp) = (.ok rx, s1)) :
    s.runSteps r (b :: rest) held = (b.keepTmp rx r s1).runSteps r rest (held ++ b.kept rx) := by
  simp only [State.runSteps, e]

theorem State.runSteps_cons_err (e : s.busOp r b.handle b.addr (b.payload (s.seq r).tmp) = (.err k, s1)) :
    s.runSteps r (b :: rest) held = (.err k, s1) := by
  simp only [State.runSteps, e]

theorem State.runSteps_cons_never (e : s.busOp r b.handle b.addr (b.payload (s.seq r).tmp) = (.never, s1)) :
    s.runSteps r (b :: rest) held = (.never, s1) := by
  simp only [State.runSteps, e]

/-- A command of one bus operation that keeps every byte it receives is that bus operation (R24, R25). -/
theorem State.runSteps_singleton
    (hkept : ∀ rx s1, s.busOp r b.handle b.addr (b.payload (s.seq r).tmp) = (.ok rx, s1) →
      b.kept rx = rx ∧ b.keepTmp rx r s1 = s1) :
    s.runSteps r [b] [] = s.busOp r b.handle b.addr (b.payload (s.seq r).tmp) := by
  rcases hop : s.busOp r b.handle b.addr (b.payload (s.seq r).tmp) with ⟨answer, s1⟩
  cases answer with
  | ok rx =>
    obtain ⟨hrx, htmp⟩ := hkept rx s1 hop
    rw [State.runSteps_cons_ok hop, hrx, htmp, State.runSteps, List.nil_append]
  | err k => rw [State.runSteps_cons_err hop]
  | never => rw [State.runSteps_cons_never hop]

end

/-- The read of `REG_READ` is one bus operation, whose byte is kept (R150). -/
theorem State.runSteps_readKept (s : State) (r : Nat) (h : BusHandle) (a : Addr) (g : Byte) :
    s.runSteps r [.readKept h a g] [] = s.busOp r h a [.write [g], .read 1] :=
  State.runSteps_singleton fun _ _ _ => ⟨rfl, rfl⟩

/-- One register write is one bus operation, which delivers no byte (R151). -/
theorem State.runSteps_writeReg (s : State) (r : Nat) (h : BusHandle) (a : Addr) (g v : Byte) :
    s.runSteps r [.writeReg h a g v] [] = s.busOp r h a [.write [g, v]] :=
  State.runSteps_singleton fun _ _ e => ⟨(State.busOp_writeRegister e).symm, rfl⟩

/-- The write of a read-modify-write is the register write of `TMP` with the masked bit set or cleared (R152). -/
theorem State.runSteps_writeTmp (s : State) (r : Nat) (h : BusHandle) (a : Addr) (g mask : Byte) (set : Bool) :
    s.runSteps r [.writeTmp h a g mask set] [] = s.busOp r h a [.write [g, modifyBit set mask (s.seq r).tmp]] :=
  State.runSteps_writeReg s r h a g (modifyBit set mask (s.seq r).tmp)

/-- A failed read ends a read-modify-write, and nothing is written (R152, R262). -/
theorem State.runSteps_rmwSteps_err {s s1 : State} {r : Nat} {h : BusHandle} {p : Pin} {base : Byte} {set : Bool}
    {k : TransportError} (e : s.busOp r h (chipAddr p.chip) [.write [portReg base p], .read 1] = (.err k, s1)) :
    s.runSteps r (rmwSteps h p base set) [] = (.err k, s1) :=
  State.runSteps_cons_err (b := .readTmp h (chipAddr p.chip) (portReg base p)) e

/-- After reading the byte `v`, a read-modify-write is the register write of `v` with the masked bit set or cleared
(R152). -/
theorem State.runSteps_rmwSteps_ok {s s1 : State} {r : Nat} {h : BusHandle} {p : Pin} {base v : Byte} {set : Bool}
    (hr : r < s.reqs.length)
    (e : s.busOp r h (chipAddr p.chip) [.write [portReg base p], .read 1] = (.ok [v], s1)) :
    s.runSteps r (rmwSteps h p base set) [] =
      (s1.setTmp r v).busOp r h (chipAddr p.chip) [.write [portReg base p, modifyBit set (pinMask p) v]] := by
  have hr1 : r < s1.reqs.length := by rw [(State.busOp_keeps e).1]; exact hr
  have hwrite := State.runSteps_writeTmp (s1.setTmp r v) r h (chipAddr p.chip) (portReg base p) (pinMask p) set
  rw [State.setTmp_tmp s1 r v hr1] at hwrite
  rw [← hwrite, rmwSteps, State.runSteps_cons_ok (b := .readTmp h (chipAddr p.chip) (portReg base p)) e]
  simp only [BusStep.kept, BusStep.keepTmp, List.headD_cons, List.append_nil]

/-! ## Registers and bits -/

/-- A per-port register is the base for port 0 and the next offset for port 1 (R95). -/
theorem portReg_eq (base : Byte) (p : Pin) : portReg base p = if p.port = 0 then base else base + 1 := by
  rcases p with ⟨c, port, bit⟩
  match port with
  | 0 | 1 => simp [portReg]

/-- The dimmer register is the one the table of R43 lists. -/
theorem dimReg_eq_dimTable (p : Pin) : dimReg p = dimTable p := by
  have table : ∀ (port : Fin 2) (bit : Fin 8), dimReg ⟨0, port, bit⟩ = dimTable ⟨0, port, bit⟩ := by decide
  exact table p.port p.bit

theorem pinMask_eq (p : Pin) : pinMask p = BitVec.ofNat 8 (2 ^ p.bit.val) := by
  have masks : ∀ bit : Fin 8, pinMask ⟨0, 0, bit⟩ = BitVec.ofNat 8 (2 ^ bit.val) := by decide
  exact masks p.bit

theorem not_pinMask_eq (p : Pin) : ~~~pinMask p = BitVec.ofNat 8 (255 - 2 ^ p.bit.val) := by
  have masks : ∀ bit : Fin 8, ~~~pinMask ⟨0, 0, bit⟩ = BitVec.ofNat 8 (255 - 2 ^ bit.val) := by decide
  exact masks p.bit

/-- The modify step changes the one bit of the pin (R14, R152). -/
theorem modifyBit_pinMask (p : Pin) (set : Bool) (v : Byte) : modifyBit set (pinMask p) v = withBit p set v := by
  cases set with
  | true => simp only [modifyBit, withBit, if_true, pinMask_eq]
  | false => simp only [modifyBit, withBit, Bool.false_eq_true, if_false, not_pinMask_eq]

theorem modeBit_eq (m : PinMode) : modeBit m = decide (m = .gpio) := by cases m <;> rfl

theorem dirBit_eq (d : PinDir) : dirBit d = decide (d = .input) := by cases d <;> rfl

/-! ## Whole commands -/

/-- A command whose one bus operation is a register write, with an empty answer, is that register write (R151, R157). -/
theorem State.writesRegister_of_steps {s : State} {r : Nat} {i : Instr} {h : BusHandle} {a : Addr} {g v : Byte}
    (hu : s.unhindered r 5) (ha : commandAdmission i s r = .admitted)
    (hsteps : commandSteps s.cfg i = [.writeReg h a g v]) (hfinish : commandFinish i = finishNone) :
    s.writesRegister r i h a g v := by
  have hends := exec_endsAs_runSteps (i := i) (by rw [hsteps]; exact hu) ha (by simp [hsteps])
  rwa [hsteps, State.runSteps_writeReg, hfinish] at hends

/-- A command whose bus operations are a read-modify-write, with an empty answer, is that read-modify-write of the
pin's register (R152). -/
theorem State.readsModifiesWrites_of_steps {s : State} {r : Nat} {i : Instr} {p : Pin} {base : Byte} {set : Bool}
    (hu : s.unhindered r 8) (ha : commandAdmission i s r = .admitted)
    (hsteps : commandSteps s.cfg i = rmwSteps s.cfg.expBus p base set) (hfinish : commandFinish i = finishNone) :
    s.readsModifiesWrites r i (chipAddr p.chip) (if p.port = 0 then base else base + 1) (withBit p set) := by
  have ⟨⟨_, hr, _⟩, _⟩ := hu
  have hends := exec_endsAs_runSteps (i := i) (by rw [hsteps]; exact hu) ha (by simp [hsteps, rmwSteps])
  rw [hsteps, hfinish] at hends
  rw [← portReg_eq]
  constructor
  · intro k s1 e
    obtain ⟨-, herr⟩ := hends
    exact herr k s1 (State.runSteps_rmwSteps_err e)
  · intro rx s1 e
    obtain ⟨v, rfl⟩ := State.busOp_readRegister e
    rw [State.runSteps_rmwSteps_ok hr e, modifyBit_pinMask] at hends
    exact ⟨v, rfl, hends⟩

/-! ## The capability tags -/

/-- No bus operation touches `CAP` (R104). -/
theorem State.busMicro_cap (s : State) (r : Nat) (b : BusStep) : (s.busMicro r b).cap = s.cap := by
  rcases s.busMicro_cases r b with ⟨_, e⟩ | ⟨_, n, _, _, answer, s1, hp, h⟩ | ⟨_, _, answer, s1, hp, h⟩
  · rw [e, State.acquire_cap]
  all_goals
    have hcap : s1.cap = s.cap := congrArg (fun x => x.2.cap) hp.symm
    rcases h with ⟨rx, _, e⟩ | ⟨k, _, e⟩ | ⟨_, e⟩ <;> simp [e, hcap]

/-- A command whose end leaves the state as it is touches `CAP` in no turn of it (R104, R162). -/
theorem exec_cap_of_finishNone {s t : State} {i : Instr} (hfinish : commandFinish i = finishNone)
    (he : exec i s = .next t) : t.cap = s.cap := by
  refine exec_keeps (Q := fun u => u.cap = s.cap) he rfl (fun _ _ => rfl) fun u hu _ => ?_
  have hcomplete : (u.complete s.turn.requester (commandFinish i)).cap = u.cap := by rw [hfinish]; rfl
  rcases u.microStep_cases s.turn.requester (commandAdmission i) (commandSteps s.cfg i) (commandFinish i) with
    ⟨_, e⟩ | ⟨_, _, ⟨_, b, _, e⟩ | ⟨_, _, e⟩ | ⟨_, _, _, e⟩ | ⟨_, _, _, e⟩ | ⟨_, _, e⟩ | ⟨_, _, e⟩⟩ <;>
    simp [State.micro, e, hu, State.busMicro_cap, hcomplete]

end Sys2Proof.Machine
end

section
/-! The statements of 41_register_driver.md: `REG_READ`, `REG_WRITE`, `PIN_SET_MODE`, `PIN_SET_DIR`, `PIN_SET_DUTY` and
`PIN_MAX_DUTY`. -/

namespace Sys2Proof.Machine

open Sys2Proof.Laws

/-- Settles O32: its one bus operation in one piece, and the format `FR` read backwards. -/
theorem registerRead : Obligations.RegisterRead := by
  refine ⟨fun s r h a g hu => ⟨?_, fun rx s1 e => State.busOp_readRegister e⟩, fun h a g => rfl, ?_⟩
  · have hends := exec_endsAs_runSteps (i := .regRead h a g) hu rfl (by simp [commandSteps, regReadSteps])
    rwa [commandSteps, regReadSteps, State.runSteps_readKept] at hends
  · refine malformedIsIllegal_of_decode fun rest i hd => ?_
    obtain ⟨h, a, g, rfl, rfl⟩ := readFR_ok (mk := .regRead) hd
    exact ⟨rfl, rfl⟩

/-- Settles O33: one register write, and the format `FRW` read backwards. -/
theorem registerWrite : Obligations.RegisterWrite := by
  refine ⟨fun s r h a g v hu => State.writesRegister_of_steps hu rfl rfl rfl, fun h a g v => rfl, ?_⟩
  refine malformedIsIllegal_of_decode fun rest i hd => ?_
  obtain ⟨h, a, g, v, rfl, rfl⟩ := readFRW_ok (mk := .regWrite) hd
  exact ⟨rfl, rfl⟩

/-- Settles O35: a read-modify-write of LEDMS, and the format `FPV` with a mode read backwards. -/
theorem pinSetMode : Obligations.PinSetMode := by
  refine ⟨fun s r p m hu => ?_, fun s t p m he => exec_cap_of_finishNone rfl he, fun p => ⟨rfl, rfl⟩, ?_⟩
  · rw [← modeBit_eq]
    exact State.readsModifiesWrites_of_steps (base := 0x12) hu rfl rfl rfl
  · refine malformedIsIllegal_of_decode fun rest i hd => ?_
    obtain ⟨p, m, v, rfl, hv, rfl⟩ := readFPV_ok (mk := .pinSetMode) hd
    exact ⟨rfl, by rw [← modeByte_of_readBit hv]; rfl⟩

/-- Settles O36: a read-modify-write of CONFIG, and the format `FPV` with a direction read backwards. -/
theorem pinSetDirection : Obligations.PinSetDirection := by
  refine ⟨fun s r p d hu => ?_, fun s t p d he => exec_cap_of_finishNone rfl he, fun p => ⟨rfl, rfl⟩, ?_⟩
  · rw [← dirBit_eq]
    exact State.readsModifiesWrites_of_steps (base := 0x04) hu rfl rfl rfl
  · refine malformedIsIllegal_of_decode fun rest i hd => ?_
    obtain ⟨p, d, v, rfl, hv, rfl⟩ := readFPV_ok (mk := .pinSetDir) hd
    exact ⟨rfl, by rw [← dirByte_of_readBit hv]; rfl⟩

/-- Settles O39: one register write to the dimmer of R43's table, and the format `FPV` with a byte read backwards. -/
theorem pinSetDuty : Obligations.PinSetDuty := by
  refine ⟨fun s r p d hu => ?_, fun p d => rfl, ?_⟩
  · rw [← dimReg_eq_dimTable]
    exact State.writesRegister_of_steps hu rfl rfl rfl
  · refine malformedIsIllegal_of_decode fun rest i hd => ?_
    obtain ⟨p, d, v, rfl, hv, rfl⟩ := readFPV_ok (mk := .pinSetDuty) hd
    cases hv
    exact ⟨rfl, rfl⟩

/-- Settles O41: a command without bus operations is one atomic step. -/
theorem pinMaxDuty : Obligations.PinMaxDuty :=
  ⟨fun _ _ h => exec_of_no_steps (i := .pinMaxDuty) h rfl rfl, rfl⟩

end Sys2Proof.Machine
end

section
/-! SUPPORT. The pin lookup of a snapshot and the packet format that carries one: the pin's bit as the statements spell
it, and the format `FPS` read backwards (43_snapshot.md R203, R204; 30_encoding.md R101). -/

namespace Sys2Proof.Machine

/-- The stored byte of a chip's port is the one at index `2 * chip + port` of the six (R203). -/
theorem snapshotByte_eq_getD (S : Snapshot) (c : Fin 3) (port : Fin 2) :
    snapshotByte S c port = (snapshotBytes S).getD (2 * c.val + port.val) 0 := by
  match c, port with
  | 0, 0 | 0, 1 | 1, 0 | 1, 1 | 2, 0 | 2, 1 => rfl

/-- The lookup of the model is the bit of the packet's bytes that the statements name (R203, R204). -/
theorem pinState_eq_levelAt (S : Snapshot) (p : Pin) : pinState S p = levelAt S p := by
  rw [pinState, bitOf, snapshotByte_eq_getD, levelAt]

end Sys2Proof.Machine

namespace Sys2Proof.Laws

/-- Format `FPS` (R101). -/
theorem readFPS_ok {mk : Pin → Snapshot → Instr} {bs : List Byte} {i : Instr} (e : readFPS mk bs = .ok i) :
    ∃ p S, i = mk p S ∧ bs = pidByte p :: snapshotBytes S := by
  unfold readFPS at e
  split at e
  · rename_i b s0 s1 s2 s3 s4 s5
    cases hp : readPid b with
    | error _ => rw [hp] at e; cases e
    | ok p =>
      rw [hp] at e
      cases e
      exact ⟨p, ⟨s0, s1, s2, s3, s4, s5⟩, rfl, by rw [pidByte_of_readPid hp, snapshotBytes]⟩
  · cases e

end Sys2Proof.Laws
end

section
/-! The statement of 43_snapshot.md about the lookup: `SNAP_PIN_STATE`. -/

namespace Sys2Proof.Machine

open Sys2Proof.Laws

/-- Settles O52: a command without bus operations is one atomic step, its answer is the pin's bit of the operand
snapshot, and the format `FPS` is read backwards. -/
theorem snapshotPinState : Obligations.SnapshotPinState := by
  refine ⟨fun s r p S h => ?_, fun p S => rfl, ?_⟩
  · rw [← pinState_eq_levelAt]
    exact exec_of_no_steps (i := .snapPinState p S) h rfl rfl
  · refine malformedIsIllegal_of_decode fun rest i hd => ?_
    obtain ⟨p, S, rfl, rfl⟩ := readFPS_ok (mk := .snapPinState) hd
    exact ⟨rfl, rfl⟩

end Sys2Proof.Machine
end

section
/-! SUPPORT. What the two consumers of a snapshot make of a pin's bit, and bit 5 of the first byte of a button event's
record (44_buttons.md R215, 45_hexpansion.md R235; 30_encoding.md R107). -/

namespace Sys2Proof.Machine

/-- The level of a button, over the statements' spelling of a pin's bit (R215). -/
theorem buttonLevel_eq_levelAt (P : Params) (S : Snapshot) (b : Fin 6) :
    buttonLevel P S b = if levelAt S P.buttonPin[b] then .released else .pressed := by
  rw [buttonLevel, pinState_eq_levelAt]

/-- The level of a slot, over the statements' spelling of a pin's bit (R235). -/
theorem slotLevel_eq_levelAt (P : Params) (S : Snapshot) (k : Fin 6) :
    slotLevel P S k = if levelAt S P.hexDetectPin[k] then .empty else .occupied := by
  rw [slotLevel, pinState_eq_levelAt]

@[simp] theorem levelWeight_released (k : Nat) : levelWeight k .released = 0 := by simp [levelWeight, levelCode]

@[simp] theorem levelWeight_pressed (k : Nat) : levelWeight k .pressed = 2 ^ k := by simp [levelWeight, levelCode]

theorem levelWeight_le (k : Nat) (l : ButtonLevel) : levelWeight k l ≤ 2 ^ k := by cases l <;> simp

@[simp] theorem ButtonEvent.pressed_iff (e : ButtonEvent) : e.pressed ↔ e.now.level = .pressed := by
  simp [ButtonEvent.pressed]

/-- The fields below `now_level` fill no more than bits 4:0, so bit 5 of the byte is the level alone (R107). -/
theorem getLsbD_add_levelWeight {low : Nat} (hlow : low < 2 ^ 5) (l : ButtonLevel) :
    (BitVec.ofNat 8 (low + levelWeight 5 l)).getLsbD 5 = (l == .pressed) := by
  rw [BitVec.getLsbD_ofNat]
  cases l with
  | released => simp [Nat.testBit_lt_two_pow hlow]
  | pressed => simp [Nat.add_comm low, Nat.testBit_two_pow_add_eq low 5, Nat.testBit_lt_two_pow hlow]

/-- Byte 0 of a record is the fields below bit 5 plus the weight of the new level (R107). -/
theorem ButtonEvent.record_head (e : ButtonEvent) :
    ∃ low, low < 2 ^ 5 ∧ e.record.headD 0 = BitVec.ofNat 8 (low + levelWeight 5 e.now.level) := by
  obtain ⟨button, previous, now⟩ := e
  cases previous with
  | none => exact ⟨button.val, by omega, rfl⟩
  | some o =>
    have hprev := levelWeight_le 4 o.level
    exact ⟨button.val + 8 + levelWeight 4 o.level, by omega, rfl⟩

end Sys2Proof.Machine
end

section
/-! The statements about the polarity of the two consumers and about `pressed` (44_buttons.md, 45_hexpansion.md). -/

namespace Sys2Proof.Machine

/-- Settles O53: each consumer reads the pin's bit of the snapshot. -/
theorem levelsAreActiveLow : Obligations.LevelsAreActiveLow :=
  fun P S b => ⟨buttonLevel_eq_levelAt P S b, slotLevel_eq_levelAt P S b⟩

/-- Settles O55: byte 0 of the record is a number below `2 ^ 5` plus the weight of the new level. -/
theorem pressedAccessor : Obligations.PressedAccessor := by
  refine fun e => ⟨e.pressed_iff, ?_⟩
  obtain ⟨low, hlow, hhead⟩ := e.record_head
  rw [hhead, getLsbD_add_levelWeight hlow, ButtonEvent.pressed]

end Sys2Proof.Machine
end

section
/-! SUPPORT. A bus transport error (60_exceptions.md R262): the micro-step that meets one takes it, a taken error has
ended the command, so the turn of its requester is over, and what the port and the lock hold then. -/

namespace Sys2Proof.Machine

/-- The select byte of a channel is the power of two of its number (R90). -/
theorem selectByte_eq_two_pow (c : Fin 8) : selectByte c = BitVec.ofNat 8 (2 ^ c.val) := by
  revert c; decide

/-! ## Where an error is met and what is taken -/

section
variable {s s1 : State} {r n : Nat} {i : Instr} {b : BusStep} {c : Fin 8} {k : TransportError}

/-- A wire transaction leaves the local state, the clock, the moves and the responses as they are (R60); the ports, the
lock and the parameters are in `State.phys_keeps`. -/
theorem State.phys_keeps_local {h : BusHandle} {role : WireRole} {a : Addr} {ops : List BusOp} {answer : Reply}
    (e : s.phys r h role a ops = (answer, s1)) :
    s1.btn = s.btn ∧ s1.hex = s.hex ∧ s1.cap = s.cap ∧ s1.clock = s.clock ∧ s1.turn = s.turn ∧
    s1.agenda = s.agenda ∧ s1.responses = s.responses := by
  cases e; exact ⟨rfl, rfl, rfl, rfl, rfl, rfl, rfl⟩

/-- A failed select write is raised, and no payload follows (R132). -/
theorem State.busMicro_of_select_err (hlock : s.lock = .held r) (hc : b.handle = .channel c)
    (hsel : (s.seq r).selected = false)
    (e : s.phys r b.handle .select muxAddr [.write [selectByte c]] = (.err k, s1)) :
    s.busMicro r b = s1.raise r k := by
  rw [hc] at e
  simp [State.busMicro, hlock, hc, hsel, e]

/-- A failed payload is raised (R132). -/
theorem State.busMicro_of_payload_err (hlock : s.lock = .held r)
    (hsent : b.handle = .direct ∨ (s.seq r).selected = true)
    (e : s.phys r b.handle .payload b.addr (b.payload (s.seq r).tmp) = (.err k, s1)) :
    s.busMicro r b = s1.raise r k := by
  rcases s.busMicro_cases r b with ⟨hfree, _⟩ | ⟨_, d, hd, hsel, _⟩ | ⟨_, _, answer, t, ht, h⟩
  · exact absurd hlock hfree
  · simp [hd, hsel] at hsent
  · rw [e] at ht
    cases ht
    simpa using h

/-- After an error the requester's port holds the status byte and no command, and only `TMP` is kept (R262 (2) to
(4)). -/
theorem State.raise_req (hr : r < s.reqs.length) :
    (s.raise r k).req r = ⟨none, Seq.cleared (s.seq r).tmp, [errorCode k]⟩ := by
  rw [State.raise, State.respond_req _ _ _ (by simpa using hr), State.seq_of_reqs_eq (s.release_reqs r)]

theorem State.raise_req_ne {j : Nat} (hj : j ≠ r) : (s.raise r k).req j = s.req j := by
  rw [State.raise, State.respond_req_ne _ _ _ _ hj, State.req_of_reqs_eq (s.release_reqs r)]

theorem State.raise_ready (hr : r < s.reqs.length) : (s.raise r k).ready r = true := by
  simp [State.ready, State.raise_req hr, hr]

theorem State.raise_lock_of_held (hlock : s.lock = .held r) : (s.raise r k).lock = .free := by
  rw [State.raise_lock, State.release_lock, if_pos hlock]

/-! ## The turn that meets an error -/

/-- The turn of a requester that has a command in flight goes on with it (R24). -/
theorem exec_of_cmd (hturn : s.turn = ⟨r, n⟩) (hcmd : (s.req r).cmd = some i) :
    exec i s = .next (s.turnOn r i s.cfg n) := by
  rw [exec_eq, State.runCommand, hturn, if_pos (State.lt_of_cmd hcmd), hcmd]
  exact congrArg _ (if_pos rfl)

/-- A turn whose first micro-step takes an error ends with it, however many micro-steps are left (R262). -/
theorem exec_of_busMicro_raise (hturn : s.turn = ⟨r, n + 1⟩) (hcmd : (s.req r).cmd = some i)
    (hstarted : (s.seq r).started = true) (hhung : (s.seq r).hung = false) (hwait : r ∉ s.wait)
    (hb : (commandSteps s.cfg i)[(s.seq r).idx]? = some b) (hr : r < s1.reqs.length)
    (hraise : s.busMicro r b = s1.raise r k) : exec i s = .next (s1.raise r k) := by
  have hmicro : s.micro r i s.cfg = s1.raise r k := by
    simp [State.micro, State.microStep, hwait, hhung, hstarted, hb, hraise]
  have hidle : ((s1.raise r k).req r).cmd = none := by rw [State.raise_req hr]
  rw [exec_of_cmd hturn hcmd, State.turnOn_of_cmd hcmd, hmicro, State.turnOn_of_idle hidle]

end

end Sys2Proof.Machine
end

section
/-! The statement of 60_exceptions.md: what taking a bus transport error does. -/

namespace Sys2Proof.Machine

/-- Settles O15: either failing transaction is raised and ends the turn, and the raised state differs from the one the
turn began in as R262 says. -/
theorem transportErrorEntry : Obligations.TransportErrorEntry := by
  intro s s1 i r n b k hturn hcmd hstarted hhung hwait hlock hb hfails
  have hraise : s.busMicro r b = s1.raise r k := by
    rcases hfails with ⟨c, hc, hsel, e⟩ | ⟨hsent, e⟩
    · rw [← selectByte_eq_two_pow] at e
      exact State.busMicro_of_select_err hlock hc hsel e
    · exact State.busMicro_of_payload_err hlock hsent e
  obtain ⟨role, a, ops, e⟩ : ∃ role a ops, s.phys r b.handle role a ops = (.err k, s1) := by
    rcases hfails with ⟨_, _, _, e⟩ | ⟨_, e⟩ <;> exact ⟨_, _, _, e⟩
  obtain ⟨hreqs, hwaits, hlock1, hcfg⟩ := State.phys_keeps e
  obtain ⟨hbtn, hhex, hcap, hclock, hturn1, hagenda, hresponses⟩ := State.phys_keeps_local e
  have hr : r < s1.reqs.length := hreqs ▸ State.lt_of_cmd hcmd
  have hport := State.raise_req (k := k) hr
  have hothers (j : Nat) (hj : j ≠ r) : (s1.raise r k).req j = s.req j := by
    rw [State.raise_req_ne hj, State.req_of_reqs_eq hreqs]
  refine ⟨s1.raise r k, exec_of_busMicro_raise hturn hcmd hstarted hhung hwait hb hr hraise,
    State.raise_lock_of_held (hlock1.trans hlock), by rw [hport], by rw [State.seq, hport]; rfl, by rw [hport],
    State.raise_ready hr, ?_⟩
  simpa [hreqs, hwaits, hcfg, hbtn, hhex, hcap, hclock, hturn1, hagenda, hresponses] using hothers

end Sys2Proof.Machine
end

section
/-! SUPPORT. The operand fields and the formats of all 28 packets, written and read back (30_encoding.md R99 to R102,
R110): a field that is written reads as its operand, and a packet that is read is the packet of its command. -/

namespace Sys2Proof.Laws

/-! ## Operand fields, written and read back -/

theorem readBussel_busselByte (h : BusHandle) : readBussel (busselByte h) = .ok h := by
  cases h with
  | direct => rfl
  | channel n => revert n; decide

theorem readAddr_addrByte (a : Addr) : readAddr (addrByte a) = .ok a := by
  have := a.isLt
  have hbyte : (addrByte a).toNat = a.toNat := by simp only [addrByte, BitVec.toNat_ofNat]; omega
  rw [readAddr, hbyte, if_pos this, BitVec.ofNat_toNat, BitVec.setWidth_eq]

theorem readPid_pidByte (p : Pin) : readPid (pidByte p) = .ok p := by
  obtain ⟨c, port, bit⟩ := p
  revert c port bit
  decide

theorem readPercent_of_inRange {pct : Byte} (h : percentInRange pct = true) : readPercent pct = .ok pct := by
  rw [readPercent, if_pos h]

theorem readChipArg_ofNat (c : Fin 3) : readChipArg (BitVec.ofNat 8 c.val) = .ok c := by
  revert c; decide

theorem readSlotArg_slotArgByte (slot : Fin 6) (enable : Bool) :
    readSlotArg (slotArgByte slot enable) = .ok (slot, enable) := by
  revert slot enable; decide

theorem readWord16_eq (v : BitVec 16) :
    readWord16 (BitVec.ofNat 8 (v.toNat % 256)) (BitVec.ofNat 8 (v.toNat / 256)) = v := by
  have := v.isLt
  apply BitVec.eq_of_toNat_eq
  simp only [readWord16, BitVec.toNat_ofNat]
  omega

/-! ## Operand fields, read and written back -/

theorem levelByte_of_readBit {b : Byte} {l : Level} (e : readBit Level.low .high b = .ok l) : levelByte l = b := by
  rcases readBit_ok e with ⟨rfl, rfl⟩ | ⟨rfl, rfl⟩ <;> rfl

theorem readPercent_ok {b v : Byte} (e : readPercent b = .ok v) : v = b ∧ percentInRange b = true := by
  unfold readPercent at e
  split at e
  · cases e; exact ⟨rfl, ‹_›⟩
  · cases e

theorem chipArg_of_readChipArg {b : Byte} {c : Fin 3} (e : readChipArg b = .ok c) : BitVec.ofNat 8 c.val = b := by
  unfold readChipArg at e
  split at e
  · cases e; exact BitVec.eq_of_toNat_eq (by simp)
  · cases e

theorem slotArgByte_of_readSlotArg {b : Byte} {x : Fin 6 × Bool} (e : readSlotArg b = .ok x) :
    slotArgByte x.1 x.2 = b := by
  unfold readSlotArg at e
  split at e
  · rename_i h
    cases e
    apply BitVec.eq_of_toNat_eq
    simp only [slotArgByte, BitVec.toNat_ofNat, decide_eq_true_eq]
    split <;> omega
  · cases e

theorem word16Bytes_readWord16 (lo hi : Byte) : word16Bytes (readWord16 lo hi) = [lo, hi] := by
  have := lo.isLt
  have := hi.isLt
  simp only [word16Bytes, readWord16, List.cons.injEq, and_true]
  constructor <;> (apply BitVec.eq_of_toNat_eq; simp only [BitVec.toNat_ofNat]; omega)

/-! ## Formats, written and read back -/

theorem readTarget_encoded (mk : BusHandle → Addr → Instr) (h : BusHandle) (a : Addr) :
    readTarget mk (busselByte h) (addrByte a) = .ok (mk h a) := by
  simp [readTarget, readBussel_busselByte, readAddr_addrByte, Except.bind, Except.map]

theorem readFP_encoded (mk : Pin → Instr) (p : Pin) : readFP mk [pidByte p] = .ok (mk p) := by
  simp [readFP, readPid_pidByte, Except.map]

theorem readFPV_encoded {α : Type} {val : Byte → Except DecodeError α} {v : Byte} {x : α} (mk : Pin → α → Instr)
    (p : Pin) (hv : val v = .ok x) : readFPV val mk [pidByte p, v] = .ok (mk p x) := by
  simp [readFPV, readPid_pidByte, hv, Except.bind, Except.map]

theorem readFPF_encoded (mk : Pin → BitVec 16 → BitVec 16 → Instr) (p : Pin) (n d : BitVec 16) :
    readFPF mk (pidByte p :: (word16Bytes n ++ word16Bytes d)) = .ok (mk p n d) := by
  simp only [word16Bytes, List.cons_append, List.nil_append, readFPF, readPid_pidByte, readWord16_eq, Except.map]

theorem readFPS_encoded (mk : Pin → Snapshot → Instr) (p : Pin) (S : Snapshot) :
    readFPS mk (pidByte p :: snapshotBytes S) = .ok (mk p S) := by
  simp [readFPS, snapshotBytes, readPid_pidByte, Except.map]

theorem readFC_encoded {α : Type} {arg : Byte → Except DecodeError α} {b : Byte} {x : α} (mk : α → Instr)
    (hb : arg b = .ok x) : readFC arg mk [b] = .ok (mk x) := by
  simp [readFC, hb, Except.map]

theorem readFBW_encoded (mk : BusHandle → Addr → List Byte → Instr) (h : BusHandle) (a : Addr) {w : List Byte}
    (hw : payloadFits w = true) :
    readFBW mk (busselByte h :: addrByte a :: BitVec.ofNat 8 w.length :: w) = .ok (mk h a w) := by
  rw [readFBW, if_pos (lengthByte w hw).symm, readTarget_encoded]

theorem readFBWR_encoded (mk : BusHandle → Addr → List Byte → Byte → Instr) (h : BusHandle) (a : Addr) {w : List Byte}
    (n : Byte) (hw : payloadFits w = true) :
    readFBWR mk (busselByte h :: addrByte a :: BitVec.ofNat 8 w.length :: n :: w) = .ok (mk h a w n) := by
  rw [readFBWR, if_pos (lengthByte w hw).symm, readTarget_encoded]

/-- The descriptors of a bus transaction, by induction on their list. -/
theorem readDescriptors_encoded (ops : List BusOp) (hfit : ∀ op ∈ ops, descriptorFits op = true) :
    readDescriptors ops.length (ops.flatMap descriptorBytes) = .ok ops := by
  induction ops with
  | nil => rfl
  | cons op rest ih =>
    obtain ⟨hop, hrest⟩ := List.forall_mem_cons.1 hfit
    cases op with
    | read len => simp [readDescriptors, descriptorBytes, ih hrest, Except.map]
    | write d => simp [readDescriptors, descriptorBytes, ih hrest, lengthByte d hop, Except.map]

theorem descriptorsFit_iff (ops : List BusOp) :
    descriptorsFit ops = true ↔ ops.length ≤ 255 ∧ ∀ op ∈ ops, descriptorFits op = true := by
  simp [descriptorsFit]

theorem countByte {ops : List BusOp} (h : ops.length ≤ 255) : (BitVec.ofNat 8 ops.length).toNat = ops.length := by
  simp only [BitVec.toNat_ofNat]; omega

theorem readFBT_encoded (mk : BusHandle → Addr → List BusOp → Instr) (h : BusHandle) (a : Addr) {ops : List BusOp}
    (hops : descriptorsFit ops = true) :
    readFBT mk (busselByte h :: addrByte a :: BitVec.ofNat 8 ops.length :: ops.flatMap descriptorBytes) =
      .ok (mk h a ops) := by
  obtain ⟨hlen, hfit⟩ := (descriptorsFit_iff ops).1 hops
  simp only [readFBT, countByte hlen, readDescriptors_encoded ops hfit, Except.bind, readTarget_encoded]

/-! ## Formats, read and written back -/

/-- Format `F0` (R101). -/
theorem readF0_ok {i j : Instr} {bs : List Byte} (e : readF0 j bs = .ok i) : i = j ∧ bs = [] := by
  unfold readF0 at e
  split at e
  · cases e; exact ⟨rfl, rfl⟩
  · cases e

/-- Format `FP` (R101). -/
theorem readFP_ok {mk : Pin → Instr} {bs : List Byte} {i : Instr} (e : readFP mk bs = .ok i) :
    ∃ p, i = mk p ∧ bs = [pidByte p] := by
  unfold readFP at e
  split at e
  · rename_i b
    cases hp : readPid b with
    | error _ => rw [hp] at e; cases e
    | ok p =>
      rw [hp] at e
      cases e
      exact ⟨p, rfl, by rw [pidByte_of_readPid hp]⟩
  · cases e

/-- Format `FPF` (R101). -/
theorem readFPF_ok {mk : Pin → BitVec 16 → BitVec 16 → Instr} {bs : List Byte} {i : Instr}
    (e : readFPF mk bs = .ok i) : ∃ p n d, i = mk p n d ∧ bs = pidByte p :: (word16Bytes n ++ word16Bytes d) := by
  unfold readFPF at e
  split at e
  · rename_i b nl nh dl dh
    cases hp : readPid b with
    | error _ => rw [hp] at e; cases e
    | ok p =>
      rw [hp] at e
      cases e
      exact ⟨p, _, _, rfl, by rw [word16Bytes_readWord16, word16Bytes_readWord16, pidByte_of_readPid hp]; rfl⟩
  · cases e

/-- Format `FS` (R101). -/
theorem readFS_ok {mk : Snapshot → Instr} {bs : List Byte} {i : Instr} (e : readFS mk bs = .ok i) :
    ∃ S, i = mk S ∧ bs = snapshotBytes S := by
  unfold readFS at e
  split at e
  · cases e; exact ⟨_, rfl, rfl⟩
  · cases e

/-- Format `FC`, for any reading of its `ARG` byte (R101, R110). -/
theorem readFC_ok {α : Type} {arg : Byte → Except DecodeError α} {mk : α → Instr} {bs : List Byte} {i : Instr}
    (e : readFC arg mk bs = .ok i) : ∃ x b, i = mk x ∧ arg b = .ok x ∧ bs = [b] := by
  unfold readFC at e
  split at e
  · rename_i b
    cases hb : arg b with
    | error _ => rw [hb] at e; cases e
    | ok x =>
      rw [hb] at e
      cases e
      exact ⟨x, b, rfl, hb, rfl⟩
  · cases e

/-- A one-byte length field that names the length of what follows is the length byte of it, which fits (R101). -/
theorem lengthByte_of_toNat {w : List Byte} {n : Byte} (h : w.length = n.toNat) :
    payloadFits w = true ∧ BitVec.ofNat 8 w.length = n := by
  have := n.isLt
  exact ⟨by simp only [payloadFits, decide_eq_true_eq]; omega, by rw [h, BitVec.ofNat_toNat, BitVec.setWidth_eq]⟩

/-- Format `FBW` (R101). -/
theorem readFBW_ok {mk : BusHandle → Addr → List Byte → Instr} {bs : List Byte} {i : Instr}
    (e : readFBW mk bs = .ok i) :
    ∃ h a w, i = mk h a w ∧ payloadFits w = true ∧
      bs = busselByte h :: addrByte a :: BitVec.ofNat 8 w.length :: w := by
  unfold readFBW at e
  split at e
  · split at e
    · rename_i hlen
      obtain ⟨hfit, hn⟩ := lengthByte_of_toNat hlen
      obtain ⟨h, a, rfl, rfl, rfl⟩ := readTarget_ok e
      exact ⟨h, a, _, rfl, hfit, by rw [hn]⟩
    · cases e
  · cases e

/-- Format `FBWR` (R101). -/
theorem readFBWR_ok {mk : BusHandle → Addr → List Byte → Byte → Instr} {bs : List Byte} {i : Instr}
    (e : readFBWR mk bs = .ok i) :
    ∃ h a w n, i = mk h a w n ∧ payloadFits w = true ∧
      bs = busselByte h :: addrByte a :: BitVec.ofNat 8 w.length :: n :: w := by
  unfold readFBWR at e
  split at e
  · split at e
    · rename_i hlen
      obtain ⟨hfit, hn⟩ := lengthByte_of_toNat hlen
      obtain ⟨h, a, rfl, rfl, rfl⟩ := readTarget_ok e
      exact ⟨h, a, _, _, rfl, hfit, by rw [hn]⟩
    · cases e
  · cases e

/-- The descriptors of a bus transaction that are read are those whose bytes they were, by induction on their number. -/
theorem readDescriptors_ok {n : Nat} {bs : List Byte} {ops : List BusOp} (e : readDescriptors n bs = .ok ops) :
    ops.length = n ∧ (∀ op ∈ ops, descriptorFits op = true) ∧ bs = ops.flatMap descriptorBytes := by
  induction n generalizing bs ops with
  | zero =>
    cases bs with
    | nil => cases e; exact ⟨rfl, by simp, rfl⟩
    | cons _ _ => cases e
  | succ n ih =>
    match bs, e with
    | [], e => cases e
    | [_], e => cases e
    | kind :: len :: rest, e =>
      simp only [readDescriptors] at e
      split at e
      · rename_i hkind
        cases hrest : readDescriptors n rest with
        | error _ => rw [hrest] at e; cases e
        | ok tail =>
          rw [hrest] at e
          cases e
          obtain ⟨hlen, hfit, rfl⟩ := ih hrest
          obtain rfl : kind = 0 := BitVec.eq_of_toNat_eq hkind
          exact ⟨by rw [List.length_cons, hlen], by simpa [descriptorFits] using hfit, rfl⟩
      · rename_i hkind
        split at e
        · rename_i hle
          cases hrest : readDescriptors n (rest.drop len.toNat) with
          | error _ => rw [hrest] at e; cases e
          | ok tail =>
            rw [hrest] at e
            cases e
            obtain ⟨hlen, hfit, hbytes⟩ := ih hrest
            obtain rfl : kind = 1 := BitVec.eq_of_toNat_eq hkind
            obtain ⟨hd, hn⟩ := lengthByte_of_toNat (w := rest.take len.toNat) (n := len) (by simp [hle])
            refine ⟨by rw [List.length_cons, hlen], List.forall_mem_cons.2 ⟨hd, hfit⟩, ?_⟩
            rw [List.flatMap_cons, ← hbytes, descriptorBytes, hn, List.cons_append, List.cons_append,
              List.take_append_drop]
        · cases e
      · cases e

/-- Format `FBT` (R101). -/
theorem readFBT_ok {mk : BusHandle → Addr → List BusOp → Instr} {bs : List Byte} {i : Instr}
    (e : readFBT mk bs = .ok i) :
    ∃ h a ops, i = mk h a ops ∧ descriptorsFit ops = true ∧
      bs = busselByte h :: addrByte a :: BitVec.ofNat 8 ops.length :: ops.flatMap descriptorBytes := by
  unfold readFBT at e
  split at e
  · rename_i b a n ds
    cases hds : readDescriptors n.toNat ds with
    | error _ => rw [hds] at e; cases e
    | ok ops =>
      rw [hds, Except.bind] at e
      obtain ⟨hlen, hfit, rfl⟩ := readDescriptors_ok hds
      obtain ⟨h, a, rfl, rfl, rfl⟩ := readTarget_ok e
      have := n.isLt
      refine ⟨h, a, ops, rfl, (descriptorsFit_iff ops).2 ⟨by omega, hfit⟩, ?_⟩
      rw [hlen, BitVec.ofNat_toNat, BitVec.setWidth_eq]
  · cases e

/-! ## Ranges of the operand fields -/

theorem busselByte_le (h : BusHandle) : (busselByte h).toNat ≤ 8 := by
  cases h with
  | direct => decide
  | channel n => simp only [busselByte, BitVec.toNat_ofNat]; omega

theorem addrByte_lt (a : Addr) : (addrByte a).toNat < 128 := by
  have := a.isLt
  simp only [addrByte, BitVec.toNat_ofNat]; omega

theorem pidByte_lt (p : Pin) : (pidByte p).toNat < 48 := by
  simp only [pidByte, BitVec.toNat_ofNat]; omega

theorem modeByte_le (m : PinMode) : (modeByte m).toNat ≤ 1 := by cases m <;> decide

theorem dirByte_le (d : PinDir) : (dirByte d).toNat ≤ 1 := by cases d <;> decide

theorem levelByte_le (l : Level) : (levelByte l).toNat ≤ 1 := by cases l <;> decide

theorem slotArgByte_range (slot : Fin 6) (enable : Bool) :
    (slotArgByte slot enable).toNat % 8 < 6 ∧ (slotArgByte slot enable).toNat < 16 := by
  revert slot enable; decide

/-- The bytes of descriptors can be cut in one way only (R101). -/
theorem descriptorBytes_append_inj {d d' : BusOp} {tail tail' : List Byte} (h : descriptorFits d = true)
    (h' : descriptorFits d' = true) (e : descriptorBytes d ++ tail = descriptorBytes d' ++ tail') :
    tail = tail' := by
  cases d with
  | read len =>
    cases d' with
    | read len' => simp [descriptorBytes] at e; exact e.2
    | write w' => simp [descriptorBytes] at e
  | write w =>
    cases d' with
    | read len' => simp [descriptorBytes] at e
    | write w' =>
      simp only [descriptorBytes, List.cons_append, List.cons.injEq, true_and] at e
      obtain ⟨hlen, happend⟩ := e
      have hlen := congrArg BitVec.toNat hlen
      rw [lengthByte w h, lengthByte w' h'] at hlen
      exact (List.append_inj happend hlen).2

/-- A byte that stands behind fewer whole descriptors than there are is a `KIND` (R101, R112). -/
theorem descriptorKind_le {ops before : List BusOp} {kind : Byte} {after : List Byte}
    (hops : ∀ d ∈ ops, descriptorFits d = true) (hbefore : ∀ d ∈ before, descriptorFits d = true)
    (hlt : before.length < ops.length)
    (e : ops.flatMap descriptorBytes = before.flatMap descriptorBytes ++ kind :: after) : kind.toNat ≤ 1 := by
  induction before generalizing ops with
  | nil =>
    cases ops with
    | nil => simp at hlt
    | cons op rest =>
      cases op with
      | read len => simp [descriptorBytes] at e; simp [← e.1]
      | write w => simp [descriptorBytes] at e; simp [← e.1]
  | cons d before ih =>
    cases ops with
    | nil => simp at hlt
    | cons op rest =>
      obtain ⟨hop, hrest⟩ := List.forall_mem_cons.1 hops
      obtain ⟨hd, hbefore⟩ := List.forall_mem_cons.1 hbefore
      rw [List.flatMap_cons, List.flatMap_cons, List.append_assoc] at e
      exact ih hrest hbefore (by simpa using hlt) (descriptorBytes_append_inj hop hd e)

end Sys2Proof.Laws
end

section
/-! The statements about the encoding (30_encoding.md): each direction goes through the 28 opcodes, format by format. -/

namespace Sys2Proof.Laws

open Sys2Proof.Machine

/-- Settles O1: each format reads back what it wrote. -/
theorem encodeThenDecode : Obligations.EncodeThenDecode := by
  intro i hwf
  cases i with
  | busRead h a n => exact readTarget_encoded (fun h a => .busRead h a n) h a
  | busWrite h a w => exact readFBW_encoded .busWrite h a hwf
  | busWriteRead h a w n => exact readFBWR_encoded .busWriteRead h a n hwf
  | busTransaction h a ops => exact readFBT_encoded .busTransaction h a hwf
  | regRead h a g => exact readTarget_encoded (fun h a => .regRead h a g) h a
  | regWrite h a g v => exact readTarget_encoded (fun h a => .regWrite h a g v) h a
  | chipInit c => exact readFC_encoded .chipInit (readChipArg_ofNat c)
  | pinSetMode p m => exact readFPV_encoded .pinSetMode p (by cases m <;> rfl)
  | pinSetDir p d => exact readFPV_encoded .pinSetDir p (by cases d <;> rfl)
  | pinSetState p l => exact readFPV_encoded .pinSetState p (by cases l <;> rfl)
  | pinSetDuty p d => exact readFPV_encoded .pinSetDuty p rfl
  | pinSetDutyFrac p n d => exact readFPF_encoded .pinSetDutyFrac p n d
  | pinSetDutyPct p pct => exact readFPV_encoded .pinSetDutyPct p (readPercent_of_inRange hwf)
  | pinMaxDuty => rfl
  | capIntoOutput p => exact readFP_encoded .capIntoOutput p
  | capIntoInput p => exact readFP_encoded .capIntoInput p
  | capIntoLed p => exact readFP_encoded .capIntoLed p
  | capOutSet p l => exact readFPV_encoded .capOutSet p (by cases l <;> rfl)
  | capInRead p => exact readFP_encoded .capInRead p
  | capLedDuty p d => exact readFPV_encoded .capLedDuty p rfl
  | capLedDutyFrac p n d => exact readFPF_encoded .capLedDutyFrac p n d
  | capLedDutyPct p pct => exact readFPV_encoded .capLedDutyPct p (readPercent_of_inRange hwf)
  | pidEncode p => exact readFP_encoded .pidEncode p
  | snapRead => rfl
  | snapPinState p S => exact readFPS_encoded .snapPinState p S
  | btnUpdate S => rfl
  | hexUpdate S => rfl
  | hexSetEnabled k e => exact readFC_encoded (fun x => .hexSetEnabled x.1 x.2) (readSlotArg_slotArgByte k e)

/-- An opcode byte read as a number is the opcode of its command (R103). -/
theorem encode_eq_cons {op : Byte} {i : Instr} (h : op.toNat = (opcode i).toNat) : encode i = op :: operandBytes i := by
  rw [encode, BitVec.eq_of_toNat_eq h]

/-- Settles O2: each format that is read is what the encoder writes for the command. -/
theorem decodeThenEncode : Obligations.DecodeThenEncode := by
  intro bs i e
  cases bs with
  | nil => cases e
  | cons op rest =>
    simp only [decode] at e
    split at e <;> rename_i hop
    · obtain ⟨h, a, n, rfl, rfl⟩ := readFR_ok e; exact ⟨rfl, encode_eq_cons hop⟩
    · obtain ⟨h, a, w, rfl, hw, rfl⟩ := readFBW_ok e; exact ⟨hw, encode_eq_cons hop⟩
    · obtain ⟨h, a, w, n, rfl, hw, rfl⟩ := readFBWR_ok e; exact ⟨hw, encode_eq_cons hop⟩
    · obtain ⟨h, a, ops, rfl, hops, rfl⟩ := readFBT_ok e; exact ⟨hops, encode_eq_cons hop⟩
    · obtain ⟨h, a, g, rfl, rfl⟩ := readFR_ok e; exact ⟨rfl, encode_eq_cons hop⟩
    · obtain ⟨h, a, g, v, rfl, rfl⟩ := readFRW_ok e; exact ⟨rfl, encode_eq_cons hop⟩
    · obtain ⟨c, b, rfl, hc, rfl⟩ := readFC_ok e
      rw [← chipArg_of_readChipArg hc]; exact ⟨rfl, encode_eq_cons hop⟩
    · obtain ⟨p, m, v, rfl, hm, rfl⟩ := readFPV_ok e
      rw [← modeByte_of_readBit hm]; exact ⟨rfl, encode_eq_cons hop⟩
    · obtain ⟨p, d, v, rfl, hd, rfl⟩ := readFPV_ok e
      rw [← dirByte_of_readBit hd]; exact ⟨rfl, encode_eq_cons hop⟩
    · obtain ⟨p, l, v, rfl, hl, rfl⟩ := readFPV_ok e
      rw [← levelByte_of_readBit hl]; exact ⟨rfl, encode_eq_cons hop⟩
    · obtain ⟨p, d, v, rfl, hd, rfl⟩ := readFPV_ok e; cases hd; exact ⟨rfl, encode_eq_cons hop⟩
    · obtain ⟨p, n, d, rfl, rfl⟩ := readFPF_ok e; exact ⟨rfl, encode_eq_cons hop⟩
    · obtain ⟨p, pct, v, rfl, hv, rfl⟩ := readFPV_ok e
      obtain ⟨rfl, hpct⟩ := readPercent_ok hv; exact ⟨hpct, encode_eq_cons hop⟩
    · obtain ⟨rfl, rfl⟩ := readF0_ok e; exact ⟨rfl, encode_eq_cons hop⟩
    · obtain ⟨p, rfl, rfl⟩ := readFP_ok e; exact ⟨rfl, encode_eq_cons hop⟩
    · obtain ⟨p, rfl, rfl⟩ := readFP_ok e; exact ⟨rfl, encode_eq_cons hop⟩
    · obtain ⟨p, rfl, rfl⟩ := readFP_ok e; exact ⟨rfl, encode_eq_cons hop⟩
    · obtain ⟨p, l, v, rfl, hl, rfl⟩ := readFPV_ok e
      rw [← levelByte_of_readBit hl]; exact ⟨rfl, encode_eq_cons hop⟩
    · obtain ⟨p, rfl, rfl⟩ := readFP_ok e; exact ⟨rfl, encode_eq_cons hop⟩
    · obtain ⟨p, d, v, rfl, hd, rfl⟩ := readFPV_ok e; cases hd; exact ⟨rfl, encode_eq_cons hop⟩
    · obtain ⟨p, n, d, rfl, rfl⟩ := readFPF_ok e; exact ⟨rfl, encode_eq_cons hop⟩
    · obtain ⟨p, pct, v, rfl, hv, rfl⟩ := readFPV_ok e
      obtain ⟨rfl, hpct⟩ := readPercent_ok hv; exact ⟨hpct, encode_eq_cons hop⟩
    · obtain ⟨p, rfl, rfl⟩ := readFP_ok e; exact ⟨rfl, encode_eq_cons hop⟩
    · obtain ⟨rfl, rfl⟩ := readF0_ok e; exact ⟨rfl, encode_eq_cons hop⟩
    · obtain ⟨p, S, rfl, rfl⟩ := readFPS_ok e; exact ⟨rfl, encode_eq_cons hop⟩
    · obtain ⟨S, rfl, rfl⟩ := readFS_ok e; exact ⟨rfl, encode_eq_cons hop⟩
    · obtain ⟨S, rfl, rfl⟩ := readFS_ok e; exact ⟨rfl, encode_eq_cons hop⟩
    · obtain ⟨⟨k, en⟩, b, rfl, hb, rfl⟩ := readFC_ok e
      rw [← slotArgByte_of_readSlotArg hb]; exact ⟨rfl, encode_eq_cons hop⟩
    · cases e

/-- Settles O3: the decoder is evaluated on the seven packets. -/
theorem specPacketsDecode : Obligations.SpecPacketsDecode := by
  refine ⟨?_, ?_, ?_, ?_, ?_, ?_, ?_⟩ <;> decide

/-- Settles O4: a packet that decodes is the packet of its command, whose operand bytes are in range. -/
theorem legalOperandsAreInRange : Obligations.LegalOperandsAreInRange := by
  intro op b rest i e
  obtain ⟨hwf, henc⟩ := decodeThenEncode _ i e
  cases i with
  | busTransaction h a ops =>
    obtain ⟨hlen, hfit⟩ := (descriptorsFit_iff ops).1 hwf
    cases henc
    refine ⟨fun _ => ⟨busselByte_le h, addrByte_lt a⟩, by simp [opcode], by simp [opcode], by simp [opcode],
      by simp [opcode], by simp [opcode], fun _ before kind after hbefore hlt hdrop => ?_⟩
    refine descriptorKind_le hfit hbefore ?_ hdrop
    simpa [Nat.mod_eq_of_lt (show ops.length < 256 by omega)] using hlt
  | busRead h a _ | busWrite h a _ | busWriteRead h a _ _ | regRead h a _ | regWrite h a _ _ =>
    cases henc
    simp [opcode, busselByte_le, addrByte_lt]
  | chipInit c => cases henc; simp [opcode]; omega
  | pinSetMode p m => cases henc; simp [opcode, pidByte_lt, modeByte_le]
  | pinSetDir p d => cases henc; simp [opcode, pidByte_lt, dirByte_le]
  | pinSetState p l | capOutSet p l => cases henc; simp [opcode, pidByte_lt, levelByte_le]
  | pinSetDutyPct p pct | capLedDutyPct p pct =>
    cases henc
    simpa [opcode, pidByte_lt, Instr.wf, percentInRange] using hwf
  | pinSetDuty p _ | capLedDuty p _ | pinSetDutyFrac p _ _ | capLedDutyFrac p _ _ | capIntoOutput p | capIntoInput p
  | capIntoLed p | capInRead p | pidEncode p | snapPinState p _ => cases henc; simp [opcode, pidByte_lt]
  | pinMaxDuty | snapRead => cases henc
  | btnUpdate _ | hexUpdate _ => cases henc; simp [opcode]
  | hexSetEnabled k en =>
    have := slotArgByte_range k en
    cases henc
    simpa [opcode] using this

/-- The packet of every well-formed command has the length R102 determines. -/
theorem encode_length (i : Instr) : PacketLength.Statement i := by
  cases i with
  | busRead h a n => exact PacketLength.busRead h a n
  | busWrite h a w => exact PacketLength.busWrite h a w
  | busWriteRead h a w n => exact PacketLength.busWriteRead h a w n
  | busTransaction h a ops => exact PacketLength.busTransaction h a ops
  | _ => exact fun _ => rfl

/-- Settles O5: a packet that decodes is the packet of its command, which has that length. -/
theorem decodedLengthIsDetermined : Obligations.DecodedLengthIsDetermined := by
  intro bs i e
  obtain ⟨hwf, rfl⟩ := decodeThenEncode bs i e
  exact encode_length i hwf

end Sys2Proof.Laws

namespace Sys2Proof.Machine

theorem State.answerIllegal_req (s : State) {r : Nat} (hr : r < s.reqs.length) :
    (s.answerIllegal r).req r = { s.req r with res := [statusIllegal] } := State.req_setReq_self s r _ hr

theorem State.answerIllegal_req_ne (s : State) {r k : Nat} (hk : k ≠ r) : (s.answerIllegal r).req k = s.req k :=
  State.req_setReq_ne s r k _ hk

/-- Settles O6: a packet that decodes is the packet of a command, so this one does not decode and is answered at once. -/
theorem malformedPacketsAreIllegal : Obligations.MalformedPacketsAreIllegal := by
  intro s r n packet hready hnone
  have hr : r < s.reqs.length := by simp only [State.ready, Bool.and_eq_true, decide_eq_true_eq] at hready; exact hready.1
  have hpresent : s.present r packet n = .next (s.answerIllegal r) := by
    rw [State.present, if_pos hready]
    cases hd : decode packet with
    | error _ => rfl
    | ok i =>
      obtain ⟨hwf, henc⟩ := Laws.decodeThenEncode packet i hd
      exact absurd henc.symm (hnone i hwf)
  refine ⟨s.answerIllegal r, hpresent, s.answerIllegal_req hr, fun k hk => s.answerIllegal_req_ne hk, ?_⟩
  simp [statusIllegal]

end Sys2Proof.Machine
end

section
/-! SUPPORT. What one micro-step can do, said once: the relation `MicroMove` names every outcome with the condition it
has (10_state.md R21, R24; 40_bus_ops.md R131, R132), and a property that every outcome keeps is kept by a turn, and,
with the other moves of the agenda, by a step. -/

namespace Sys2Proof.Machine

/-! ## The completing micro-step -/

section
variable (s : State) (r : Nat) (i : Instr)

theorem State.complete_eq : s.complete r (commandFinish i) =
    (commandFinish i (s.seq r).held s).1.respond r (statusOk :: (commandFinish i (s.seq r).held s).2) := rfl

@[simp] theorem State.complete_cfg : (s.complete r (commandFinish i)).cfg = s.cfg := by
  simp [State.complete_eq, commandFinish_keeps]

@[simp] theorem State.complete_lock : (s.complete r (commandFinish i)).lock = s.lock := by
  simp [State.complete_eq, commandFinish_keeps]

@[simp] theorem State.complete_wait : (s.complete r (commandFinish i)).wait = s.wait := by
  simp [State.complete_eq, commandFinish_keeps]

@[simp] theorem State.complete_env : (s.complete r (commandFinish i)).env = s.env := by
  simp [State.complete_eq, commandFinish_keeps]

@[simp] theorem State.complete_turn : (s.complete r (commandFinish i)).turn = s.turn := by
  simp [State.complete_eq, commandFinish_keeps]

@[simp] theorem State.complete_agenda : (s.complete r (commandFinish i)).agenda = s.agenda := by
  simp [State.complete_eq, commandFinish_keeps]

@[simp] theorem State.complete_wire : (s.complete r (commandFinish i)).wire = s.wire := by
  simp [State.complete_eq, commandFinish_keeps]

@[simp] theorem State.complete_length : (s.complete r (commandFinish i)).reqs.length = s.reqs.length := by
  simp [State.complete_reqs]

end

/-! ## The outcomes of a micro-step -/

/-- Requester `r` may go on with bus operation `b` of its command `i` (R21, R24, R63). -/
structure State.AtOperation (s : State) (r : Nat) (i : Instr) (P : Params) (b : BusStep) : Prop where
  notWaiting : r ∉ s.wait
  notHung : (s.seq r).hung = false
  started : (s.seq r).started = true
  next : (commandSteps P i)[(s.seq r).idx]? = some b

/-- The wire transaction that is due in bus operation `b`: on a channel the select write first, else the payload
(R132). -/
def State.Due (s : State) (r : Nat) (b : BusStep) (role : WireRole) (a : Addr) (ops : List BusOp) : Prop :=
  (∃ n, b.handle = .channel n ∧ (s.seq r).selected = false ∧
    role = .select ∧ a = muxAddr ∧ ops = [.write [selectByte n]]) ∨
  ((b.handle = .direct ∨ (s.seq r).selected = true) ∧
    role = .payload ∧ a = b.addr ∧ ops = b.payload (s.seq r).tmp)

/-- Every outcome of one micro-step of requester `r` on its command `i`. -/
inductive State.MicroMove (s : State) (r : Nat) (i : Instr) (P : Params) : State → Prop
  /-- A requester that waits, or whose transaction never completes, or whose command may not start yet. -/
  | still : MicroMove s r i P s
  | start (hwait : r ∉ s.wait) (hhung : (s.seq r).hung = false) (hstarted : (s.seq r).started = false)
      (hentry : commandAdmission i s r = .admitted) (hsteps : commandSteps P i ≠ []) :
      MicroMove s r i P (s.setSeq r { s.seq r with started := true })
  | refuse (hwait : r ∉ s.wait) (hhung : (s.seq r).hung = false) (hstarted : (s.seq r).started = false)
      (hentry : commandAdmission i s r = .refused) : MicroMove s r i P (s.respond r [statusIllegal])
  | complete (hwait : r ∉ s.wait) (hhung : (s.seq r).hung = false)
      (hlast : (commandSteps P i)[(s.seq r).idx]? = none)
      (hentry : (s.seq r).started = true ∨
        (s.seq r).started = false ∧ commandAdmission i s r = .admitted ∧ commandSteps P i = []) :
      MicroMove s r i P (s.complete r (commandFinish i))
  | takeLock {b : BusStep} (hop : s.AtOperation r i P b) (hlock : s.lock = .free) :
      MicroMove s r i P { s with lock := .held r }
  | joinWait {b : BusStep} {k : Nat} (hop : s.AtOperation r i P b) (hlock : s.lock = .held k) (hne : k ≠ r) :
      MicroMove s r i P { s with wait := waitInsert s.wait r }
  | select {b : BusStep} {n : Fin 8} {rx : List Byte} (hop : s.AtOperation r i P b) (hlock : s.lock = .held r)
      (hhandle : b.handle = .channel n) (hselected : (s.seq r).selected = false)
      (hreply : (s.phys r b.handle .select muxAddr [.write [selectByte n]]).1 = .ok rx) :
      MicroMove s r i P ((s.phys r b.handle .select muxAddr [.write [selectByte n]]).2.setSeq r
        { s.seq r with selected := true })
  | payload {b : BusStep} {rx : List Byte} (hop : s.AtOperation r i P b) (hlock : s.lock = .held r)
      (hsent : b.handle = .direct ∨ (s.seq r).selected = true)
      (hreply : (s.phys r b.handle .payload b.addr (b.payload (s.seq r).tmp)).1 = .ok rx) :
      MicroMove s r i P (((s.phys r b.handle .payload b.addr (b.payload (s.seq r).tmp)).2.release r).setSeq r
        (b.absorb rx (s.seq r)))
  | fail {b : BusStep} {role : WireRole} {a : Addr} {ops : List BusOp} {k : TransportError}
      (hop : s.AtOperation r i P b) (hlock : s.lock = .held r) (hdue : s.Due r b role a ops)
      (hreply : (s.phys r b.handle role a ops).1 = .err k) :
      MicroMove s r i P ((s.phys r b.handle role a ops).2.raise r k)
  | hang {b : BusStep} {role : WireRole} {a : Addr} {ops : List BusOp}
      (hop : s.AtOperation r i P b) (hlock : s.lock = .held r) (hdue : s.Due r b role a ops)
      (hreply : (s.phys r b.handle role a ops).1 = .never) :
      MicroMove s r i P ((s.phys r b.handle role a ops).2.hang r)

/-- A micro-step inside a bus operation is one of the outcomes. -/
theorem State.busMicro_move {s : State} {r : Nat} {i : Instr} {P : Params} {b : BusStep}
    (hop : s.AtOperation r i P b) : s.MicroMove r i P (s.busMicro r b) := by
  rcases s.busMicro_cases r b with ⟨hl, e⟩ | ⟨hl, n, hh, hs, answer, s1, hp, h⟩ | ⟨hl, hs, answer, s1, hp, h⟩
  · rw [e]
    rcases s.acquire_cases r with ⟨hfree, e⟩ | ⟨k, hk, e⟩ <;> rw [e]
    · exact .takeLock hop hfree
    · exact .joinWait hop hk fun hkr => hl (hkr ▸ hk)
  · obtain ⟨rfl, rfl⟩ := Prod.ext_iff.1 hp
    have hdue : s.Due r b .select muxAddr [.write [selectByte n]] := .inl ⟨n, hh, hs, rfl, rfl, rfl⟩
    rcases h with ⟨rx, ha, e⟩ | ⟨k, ha, e⟩ | ⟨ha, e⟩ <;> rw [e]
    · exact .select hop hl hh hs ha
    · exact .fail hop hl hdue ha
    · exact .hang hop hl hdue ha
  · obtain ⟨rfl, rfl⟩ := Prod.ext_iff.1 hp
    have hdue : s.Due r b .payload b.addr (b.payload (s.seq r).tmp) := .inr ⟨hs, rfl, rfl, rfl⟩
    rcases h with ⟨rx, ha, e⟩ | ⟨k, ha, e⟩ | ⟨ha, e⟩ <;> rw [e]
    · exact .payload hop hl hs ha
    · exact .fail hop hl hdue ha
    · exact .hang hop hl hdue ha

/-- Every micro-step is one of the outcomes. -/
theorem State.micro_move (s : State) (r : Nat) (i : Instr) (P : Params) : s.MicroMove r i P (s.micro r i P) := by
  rcases s.microStep_cases r (commandAdmission i) (commandSteps P i) (commandFinish i) with
    ⟨_, e⟩ | ⟨hw, hh, ⟨hs, b, hb, e⟩ | ⟨hs, hb, e⟩ | ⟨hs, ha, hb, e⟩ | ⟨hs, ha, hb, e⟩ | ⟨hs, ha, e⟩ | ⟨hs, ha, e⟩⟩ <;>
    rw [State.micro, e]
  · exact .still
  · exact State.busMicro_move ⟨hw, hh, hs, hb⟩
  · exact .complete hw hh hb (.inl hs)
  · exact .complete hw hh (by rw [hb]; rfl) (.inr ⟨hs, ha, hb⟩)
  · exact .start hw hh hs ha hb
  · exact .refuse hw hh hs ha
  · exact .still

/-! ## What every outcome keeps -/

section
variable {s t : State} {r : Nat} {i : Instr} {P : Params}

theorem State.MicroMove.cfg (h : s.MicroMove r i P t) : t.cfg = s.cfg := by cases h <;> simp

theorem State.MicroMove.turn (h : s.MicroMove r i P t) : t.turn = s.turn := by cases h <;> simp

theorem State.MicroMove.agenda (h : s.MicroMove r i P t) : t.agenda = s.agenda := by cases h <;> simp

theorem State.MicroMove.length (h : s.MicroMove r i P t) : t.reqs.length = s.reqs.length := by cases h <;> simp

/-- A micro-step of one requester leaves the port of every other alone (R22 to R25). -/
theorem State.MicroMove.req_ne (h : s.MicroMove r i P t) {k : Nat} (hk : k ≠ r) : t.req k = s.req k := by
  cases h with
  | still | takeLock | joinWait => rfl
  | start => exact s.setSeq_req_ne r k _ hk
  | refuse => exact s.respond_req_ne r k _ hk
  | complete => exact s.complete_req_ne r k i hk
  | select => rw [State.setSeq_req_ne _ _ _ _ hk]; rfl
  | payload => rw [State.setSeq_req_ne _ _ _ _ hk, State.req_of_reqs_eq (State.release_reqs _ _)]; rfl
  | fail => rw [State.raise_req_ne hk]; rfl
  | hang => rw [State.hang, State.setSeq_req_ne _ _ _ _ hk]; rfl

theorem State.MicroMove.seq_ne (h : s.MicroMove r i P t) {k : Nat} (hk : k ≠ r) : t.seq k = s.seq k :=
  congrArg Requester.seq (h.req_ne hk)

/-- The local state is written by the completing micro-step alone, of a command in progress or just admitted (R73). -/
theorem State.MicroMove.local_or_complete (h : s.MicroMove r i P t) :
    (t.btn = s.btn ∧ t.hex = s.hex ∧ t.cap = s.cap ∧ t.clock = s.clock) ∨
    (t = s.complete r (commandFinish i) ∧ ((s.seq r).started = true ∨ commandAdmission i s r = .admitted)) := by
  cases h with
  | complete _ _ _ hentry => exact .inr ⟨rfl, hentry.imp_right fun h => h.2.1⟩
  | _ => left; simp

end

/-! ## Properties that are kept -/

/-- A property that loading command `i` and every outcome of its micro-steps keep is kept by the whole meaning. -/
theorem exec_keeps_moves {Q : State → Prop} {i : Instr} {s t : State} (he : exec i s = .next t) (hq : Q s)
    (hload : s.turn.requester < s.reqs.length → (s.req s.turn.requester).cmd = none → Q (s.load s.turn.requester i))
    (hmove : ∀ u v, Q u → u.cfg = s.cfg → (u.req s.turn.requester).cmd = some i →
      u.MicroMove s.turn.requester i s.cfg v → Q v) : Q t := by
  have hboth : Q t ∧ t.cfg = s.cfg := by
    refine exec_keeps (Q := fun u => Q u ∧ u.cfg = s.cfg) he ⟨hq, rfl⟩ (fun hr hc => ⟨hload hr hc, rfl⟩) ?_
    rintro u ⟨hu, hcfg⟩ hc
    have hm := u.micro_move s.turn.requester i s.cfg
    exact ⟨hmove u _ hu hcfg hc hm, hm.cfg.trans hcfg⟩
  exact hboth.1

/-- A property of the machine that each kind of move keeps: the moves of the agents (R18), each cut into what it does
to the state. -/
structure KeptByMoves (Q : State → Prop) : Prop where
  agenda : ∀ s rest, Q s → Q { s with agenda := rest }
  turn : ∀ s r n, Q s → Q (s.giveTurn r n)
  load : ∀ s r i, Q s → r < s.reqs.length → (s.req r).cmd = none → Q (s.load r i)
  micro : ∀ s t r i, Q s → (s.req r).cmd = some i → s.MicroMove r i s.cfg t → Q t
  illegal : ∀ s r, Q s → r < s.reqs.length → (s.req r).cmd = none → Q (s.answerIllegal r)
  grant : ∀ s r, Q s → s.lock = .free → r ∈ s.wait →
    Q { s with lock := .held r, wait := s.wait.filter (· != r) }
  clock : ∀ s c, Q s → Q { s with clock := c }
  drift : ∀ s d, Q s → Q { s with env := s.env.drift d }

theorem State.ready_iff (s : State) (r : Nat) : s.ready r = true ↔ r < s.reqs.length ∧ (s.req r).cmd = none := by
  simp [State.ready]

section
variable {Q : State → Prop} {s t : State}

theorem KeptByMoves.exec (h : KeptByMoves Q) {i : Instr} (he : exec i s = .next t) (hq : Q s) : Q t :=
  exec_keeps_moves he hq (h.load s _ i hq) fun u v hu hcfg hc hm => h.micro u v _ i hu hc (hcfg ▸ hm)

/-- A property that each kind of move keeps is kept by every step. -/
theorem KeptByMoves.step (h : KeptByMoves Q) (he : step s = .next t) (hq : Q s) : Q t := by
  unfold Machine.step at he
  split at he
  · cases he; exact hq
  · rename_i m rest _
    have hq := h.agenda s rest hq
    generalize { s with agenda := rest } = u at he hq
    cases m with
    | present r packet n =>
      simp only [State.move, State.present] at he
      split at he
      · rename_i hready
        obtain ⟨hr, hc⟩ := (u.ready_iff r).1 hready
        split at he
        · exact h.exec he (h.turn u r n hq)
        · cases he; exact h.illegal u r hq hr hc
      · cases he; exact hq
    | run r n =>
      simp only [State.move, State.resume] at he
      split at he
      · exact h.exec he (h.turn u r n hq)
      · cases he; exact hq
    | grant r =>
      cases he
      rcases u.grant_cases r with ⟨hfree, hmem, e⟩ | e <;> rw [e]
      · exact h.grant u r hq hfree hmem
      · exact hq
    | clock readings => cases he; exact h.clock u _ hq
    | drift d => cases he; exact h.drift u d hq

/-- A property that each kind of move keeps is kept by every run. -/
theorem KeptByMoves.run (h : KeptByMoves Q) (n : Nat) (he : Host.Core.run Sys2Proof.core n s = .next t) (hq : Q s) :
    Q t := by
  induction n generalizing s with
  | zero => cases he; exact hq
  | succ n ih =>
    simp only [Host.Core.run] at he
    split at he
    · exact ih he (h.step ‹_› hq)
    · cases he
    · cases he

end

end Sys2Proof.Machine
end

section
/-! SUPPORT. The invariant of the block state (10_state.md, 40_bus_ops.md R131, 20_memory.md R73) under each kind of
change: a port whose sequencer is cleared, a command in progress that goes on, and a change of the lock alone. -/

namespace Sys2Proof.Machine

section
variable {s t : State} {r : Nat} {i : Instr} {P : Params}

/-! ## Ports after an outcome -/

theorem State.AtOperation.lt {b : BusStep} (h : s.AtOperation r i P b) : (s.seq r).idx < (commandSteps P i).length :=
  (List.getElem?_eq_some_iff.1 h.next).1

theorem State.seq_of_req {q : Requester} (h : s.req r = q) : s.seq r = q.seq := congrArg Requester.seq h

theorem State.setSeq_seq (s : State) (q : Seq) (hr : r < s.reqs.length) : (s.setSeq r q).seq r = q :=
  State.setReq_seq s r _ hr

theorem State.setSeq_cmd (s : State) (q : Seq) (hr : r < s.reqs.length) :
    ((s.setSeq r q).req r).cmd = (s.req r).cmd := by rw [State.setSeq_req _ _ _ hr]

/-- What a completed bus operation leaves in the sequencer but for the bytes: the next index, no channel selected
(R24, R30). -/
theorem BusStep.absorb_keeps (b : BusStep) (rx : List Byte) (q : Seq) :
    (b.absorb rx q).started = q.started ∧ (b.absorb rx q).idx = q.idx + 1 ∧ (b.absorb rx q).selected = false ∧
    (b.absorb rx q).hung = q.hung := by
  cases b <;> exact ⟨rfl, rfl, rfl, rfl⟩

/-! ## Two commands in progress -/

/-- Any two commands in progress stand in the relation `R`. -/
def State.PairsInProgress (s : State) (R : Instr → Instr → Prop) : Prop :=
  ∀ k l j j', k ≠ l → (s.req k).cmd = some j → (s.req l).cmd = some j' → (s.seq k).started = true →
    (s.seq l).started = true → R j j'

/-- Two commands are not `CAP_*` commands on one pin (R183 d). -/
def onDistinctPins (i j : Instr) : Prop := ∀ p, capPin i = some p → capPin j ≠ some p

/-- Two commands are not `HEX_SET_ENABLED` both (R73). -/
def notBothEnable (i j : Instr) : Prop := isSetEnabled i = true → isSetEnabled j = false

theorem onDistinctPins_symm (i j : Instr) (h : onDistinctPins i j) : onDistinctPins j i :=
  fun p hj hi => h p hi hj

theorem notBothEnable_symm (i j : Instr) (h : notBothEnable i j) : notBothEnable j i := by
  intro hj
  rw [← Bool.not_eq_true]
  intro hi
  rw [h hi] at hj; cases hj

theorem State.Inv.pairs_onDistinctPins (h : s.Inv) : s.PairsInProgress onDistinctPins :=
  fun k l j j' hkl hc hc' hs hs' p => h.capExclusive k l j j' p hkl hc hc' hs hs'

theorem State.Inv.pairs_notBothEnable (h : s.Inv) : s.PairsInProgress notBothEnable :=
  h.hexExclusive

/-- One requester stops: its command is in no pair any more. -/
theorem State.PairsInProgress.stop {R : Instr → Instr → Prop} (h : s.PairsInProgress R)
    (hself : (t.seq r).started = false) (hother : ∀ k, k ≠ r → t.req k = s.req k) : t.PairsInProgress R := by
  intro k l j j' hkl hc hc' hs hs'
  have hne : ∀ m, (t.seq m).started = true → m ≠ r := by
    rintro m hm rfl
    rw [hself] at hm; cases hm
  have hk := hother k (hne k hs)
  have hl := hother l (hne l hs')
  rw [hk] at hc; rw [hl] at hc'; rw [State.seq, hk] at hs; rw [State.seq, hl] at hs'
  exact h k l j j' hkl hc hc' hs hs'

/-- One requester goes on, or starts, with a command that stands in `R` to every other one in progress. -/
theorem State.PairsInProgress.run {R : Instr → Instr → Prop} (h : s.PairsInProgress R) (hsymm : ∀ i j, R i j → R j i)
    (hself : (t.req r).cmd = some i) (hother : ∀ k, k ≠ r → t.req k = s.req k)
    (hclear : ∀ k j, k ≠ r → (s.req k).cmd = some j → (s.seq k).started = true → R i j) : t.PairsInProgress R := by
  intro k l j j' hkl hc hc' hs hs'
  by_cases hk : k = r
  · subst hk
    obtain rfl : i = j := Option.some.inj (hself.symm.trans hc)
    have hl := hother l hkl.symm
    rw [hl] at hc'; rw [State.seq, hl] at hs'
    exact hclear l j' hkl.symm hc' hs'
  · have hok := hother k hk
    rw [hok] at hc; rw [State.seq, hok] at hs
    by_cases hl : l = r
    · subst hl
      obtain rfl : i = j' := Option.some.inj (hself.symm.trans hc')
      exact hsymm i j (hclear k j hkl hc hs)
    · have hol := hother l hl
      rw [hol] at hc'; rw [State.seq, hol] at hs'
      exact h k l j j' hkl hc hc' hs hs'

/-! ## The three kinds of change -/

/-- A requester that has no command in progress after the change, and holds or wants the lock no more. -/
theorem State.Inv.port_cleared (h : s.Inv) {cmd : Option Instr} {tmp : Byte} {res : List Byte}
    (hcfg : t.cfg = s.cfg) (hlen : t.reqs.length = s.reqs.length) (hmem : Memory.wf t.env.fill t.env.regs)
    (hwait : t.wait = s.wait) (hlock : t.lock = if s.lock = .held r then .free else s.lock) (hr : r ∉ s.wait)
    (hself : t.req r = ⟨cmd, Seq.cleared tmp, res⟩) (hother : ∀ k, k ≠ r → t.req k = s.req k) : t.Inv := by
  have hseq : t.seq r = Seq.cleared tmp := State.seq_of_req hself
  have hseqs : ∀ k, k ≠ r → t.seq k = s.seq k := fun k hk => State.seq_of_req (hother k hk)
  have hheld : ∀ k, t.lock = .held k → k ≠ r ∧ s.lock = .held k := by
    intro k hk
    rw [hlock] at hk
    split at hk
    · cases hk
    · rename_i hne
      exact ⟨fun e => hne (e ▸ hk), hk⟩
  have hbusy : ∀ k, t.busy k → k ≠ r ∧ s.busy k := by
    rintro k (hk | hk)
    · exact ⟨(hheld k hk).1, .inl (hheld k hk).2⟩
    · rw [hwait] at hk; exact ⟨fun e => hr (e ▸ hk), .inr hk⟩
  have hstop : (t.seq r).started = false := by rw [hseq]; rfl
  refine ⟨by rw [hlen, hcfg]; exact h.ports, hmem, hwait ▸ h.waitSorted, ?_, ?_, ?_, ?_, ?_, ?_, ?_, ?_⟩
  · intro k hk hl
    exact h.waitNotHolder k (hwait ▸ hk) (hheld k hl).2
  · intro k hk
    obtain ⟨hne, hb⟩ := hbusy k hk
    rw [hlen, hseqs k hne, hother k hne, hcfg]
    exact h.busyCommand k hb
  · intro k hk
    by_cases hkr : k = r
    · subst hkr; rw [hseq] at hk; simp [Seq.cleared] at hk
    · rw [hseqs k hkr] at hk
      have hold := h.midOperation k hk
      rw [hlock, hold, if_neg (by simpa using hkr)]
  · intro k hk
    by_cases hkr : k = r
    · subst hkr; rw [hseq]; rfl
    · rw [hseqs k hkr] at hk ⊢; exact h.notStarted k hk
  · intro k hk
    by_cases hkr : k = r
    · subst hkr; rw [hseq]; rfl
    · rw [hother k hkr] at hk; rw [hseqs k hkr]; exact h.idleCleared k hk
  · intro k j p hc hs hp
    have hkr : k ≠ r := by
      rintro rfl
      rw [hstop] at hs; cases hs
    rw [hother k hkr] at hc; rw [hseqs k hkr] at hs; rw [hcfg]
    exact h.detectOwned k j p hc hs hp
  · intro k l j j' p hkl hc hc' hs hs'
    exact h.pairs_onDistinctPins.stop hstop hother k l j j' hkl hc hc' hs hs' p
  · exact h.pairs_notBothEnable.stop hstop hother

/-- No other command in progress stands in the way of command `i` of requester `r` (R73, R183). -/
structure State.Cleared (s : State) (r : Nat) (i : Instr) : Prop where
  detect : ∀ p, capPin i = some p → isDetectPin s.cfg p = false
  cap : ∀ k j p, k ≠ r → (s.req k).cmd = some j → (s.seq k).started = true → capPin i = some p → capPin j ≠ some p
  hex : ∀ k j, k ≠ r → (s.req k).cmd = some j → (s.seq k).started = true → isSetEnabled i = true →
    isSetEnabled j = false

/-- A command in progress stays clear of the others. -/
theorem State.Inv.cleared (h : s.Inv) (hc : (s.req r).cmd = some i) (hs : (s.seq r).started = true) :
    s.Cleared r i where
  detect p hp := h.detectOwned r i p hc hs hp
  cap k j p hk hj hsk hp := h.capExclusive r k i j p hk.symm hc hj hs hsk hp
  hex k j hk hj hsk hi := h.hexExclusive r k i j hk.symm hc hj hs hsk hi

/-- A requester whose command is in progress after the change, with the lock as it was or released. -/
theorem State.Inv.port_running (h : s.Inv) {q : Seq} (hcmd : (s.req r).cmd = some i) (hclear : s.Cleared r i)
    (hcfg : t.cfg = s.cfg) (hlen : t.reqs.length = s.reqs.length) (hmem : Memory.wf t.env.fill t.env.regs)
    (hwait : t.wait = s.wait) (hr : r ∉ s.wait)
    (hlock : t.lock = s.lock ∨ s.lock = .held r ∧ t.lock = .free)
    (hself : t.req r = { s.req r with seq := q }) (hother : ∀ k, k ≠ r → t.req k = s.req k)
    (hstarted : q.started = true) (hmid : q.selected = true ∨ q.hung = true → t.lock = .held r)
    (hidx : t.lock = .held r → q.idx < (commandSteps s.cfg i).length) : t.Inv := by
  have hseq : t.seq r = q := State.seq_of_req hself
  have hseqs : ∀ k, k ≠ r → t.seq k = s.seq k := fun k hk => State.seq_of_req (hother k hk)
  have hcmds : ∀ k, (t.req k).cmd = (s.req k).cmd := by
    intro k
    by_cases hk : k = r
    · subst hk; rw [hself]
    · rw [hother k hk]
  have hheld : ∀ k, t.lock = .held k → s.lock = .held k := by
    intro k hk
    rcases hlock with hl | ⟨_, hl⟩
    · rw [← hl]; exact hk
    · rw [hl] at hk; cases hk
  refine ⟨by rw [hlen, hcfg]; exact h.ports, hmem, hwait ▸ h.waitSorted, ?_, ?_, ?_, ?_, ?_, ?_, ?_, ?_⟩
  · intro k hk hl
    exact h.waitNotHolder k (hwait ▸ hk) (hheld k hl)
  · intro k hk
    by_cases hkr : k = r
    · subst hkr
      rw [hlen, hseq, hcmds, hcfg]
      rcases hk with hk | hk
      · exact ⟨State.lt_of_cmd hcmd, hstarted, i, hcmd, hidx hk⟩
      · exact absurd (hwait ▸ hk) hr
    · rw [hlen, hseqs k hkr, hcmds, hcfg]
      exact h.busyCommand k (hk.imp (hheld k) (hwait ▸ ·))
  · intro k hk
    by_cases hkr : k = r
    · subst hkr; rw [hseq] at hk; exact hmid hk
    · rw [hseqs k hkr] at hk
      have hold := h.midOperation k hk
      rcases hlock with hl | ⟨hl, _⟩
      · rw [hl]; exact hold
      · rw [hold] at hl; cases hl; exact absurd rfl hkr
  · intro k hk
    by_cases hkr : k = r
    · subst hkr; rw [hseq, hstarted] at hk; cases hk
    · rw [hseqs k hkr] at hk ⊢; exact h.notStarted k hk
  · intro k hk
    by_cases hkr : k = r
    · subst hkr; rw [hcmds, hcmd] at hk; cases hk
    · rw [hcmds] at hk; rw [hseqs k hkr]; exact h.idleCleared k hk
  · intro k j p hc hs hp
    rw [hcmds] at hc; rw [hcfg]
    by_cases hkr : k = r
    · subst hkr
      obtain rfl : i = j := Option.some.inj (hcmd.symm.trans hc)
      exact hclear.detect p hp
    · rw [hseqs k hkr] at hs; exact h.detectOwned k j p hc hs hp
  · intro k l j j' p hkl hc hc' hs hs'
    exact h.pairs_onDistinctPins.run onDistinctPins_symm ((hcmds r).trans hcmd) hother
      (fun m c hm hc hs p => hclear.cap m c p hm hc hs) k l j j' hkl hc hc' hs hs' p
  · exact h.pairs_notBothEnable.run notBothEnable_symm ((hcmds r).trans hcmd) hother hclear.hex

/-- A change of the lock and the waiting set, where every requester that holds or waits then has a bus operation
ahead. -/
theorem State.Inv.lock_changed (h : s.Inv) {l : LockState} {w : List Nat} (hsorted : w.Pairwise (· < ·))
    (hholder : ∀ k ∈ w, l ≠ .held k) (hmid : ∀ k, s.lock = .held k → l = .held k)
    (hbusy : ∀ k, l = .held k ∨ k ∈ w → s.busy k ∨ ∃ b i, (s.req k).cmd = some i ∧ s.AtOperation k i s.cfg b) :
    { s with lock := l, wait := w }.Inv where
  ports := h.ports
  memory := h.memory
  waitSorted := hsorted
  waitNotHolder := hholder
  busyCommand k hk := by
    rcases hbusy k hk with hk | ⟨b, i, hc, hop⟩
    · exact h.busyCommand k hk
    · exact ⟨State.lt_of_cmd hc, hop.started, i, hc, hop.lt⟩
  midOperation k hk := hmid k (h.midOperation k hk)
  notStarted := h.notStarted
  idleCleared := h.idleCleared
  detectOwned := h.detectOwned
  capExclusive := h.capExclusive
  hexExclusive := h.hexExclusive

/-! ## Admission -/

theorem State.otherInProgress_false {test : Instr → Bool} (h : s.otherInProgress r test = false) {k : Nat} {j : Instr}
    (hk : k ≠ r) (hj : (s.req k).cmd = some j) (hs : (s.seq k).started = true) : test j = false := by
  simp only [State.otherInProgress, List.any_eq_false, List.mem_range] at h
  have := h k (State.lt_of_cmd hj)
  simpa [hk, hs, hj] using this

theorem State.otherInProgress_true {test : Instr → Bool} {k : Nat} {j : Instr} (hk : k ≠ r)
    (hj : (s.req k).cmd = some j) (hs : (s.seq k).started = true) (ht : test j = true) :
    s.otherInProgress r test = true := by
  simp only [State.otherInProgress, List.any_eq_true, List.mem_range]
  exact ⟨k, State.lt_of_cmd hj, by simp [hk, hs, hj, ht]⟩

/-- The interlock and the owner of the detect pins say what a capability command that is admitted has found (R183). -/
theorem State.admitCap_admitted {p : Pin} {allowed : CapTag → Bool} (h : s.admitCap r p allowed = .admitted) :
    isDetectPin s.cfg p = false ∧ s.otherInProgress r (fun i => capPin i == some p) = false ∧
    allowed (s.capOf p) = true := by
  unfold State.admitCap at h
  split at h
  · cases h
  · split at h
    · cases h
    · unfold admitIf at h
      split at h
      · simp_all
      · cases h

/-- A capability command is admitted by `admitCap`, and by a further condition if it has one (R183, R190). -/
theorem commandAdmission_capPin {p : Pin} (hp : capPin i = some p) :
    ∃ allowed b, commandAdmission i s r = (s.admitCap r p allowed).andThen b := by
  cases i with
  | capLedDutyFrac q num den => cases hp; exact ⟨_, _, rfl⟩
  | capIntoOutput q | capIntoInput q | capIntoLed q | capOutSet q _ | capInRead q | capLedDuty q _
  | capLedDutyPct q _ =>
    cases hp
    simp only [commandAdmission]
    exact ⟨_, true, (Admission.andThen_true _).symm⟩
  | _ => cases hp

/-- What a capability command that is admitted has found (R183). -/
theorem capPin_admitted {p : Pin} (hp : capPin i = some p) (ha : commandAdmission i s r = .admitted) :
    isDetectPin s.cfg p = false ∧ s.otherInProgress r (fun i => capPin i == some p) = false := by
  obtain ⟨allowed, b, e⟩ := commandAdmission_capPin (s := s) (r := r) hp
  rw [e, Admission.andThen_eq_admitted] at ha
  obtain ⟨hdetect, hidle, -⟩ := State.admitCap_admitted ha.1
  exact ⟨hdetect, hidle⟩

theorem commandAdmission_setEnabled (hi : isSetEnabled i = true) (ha : commandAdmission i s r = .admitted) :
    s.otherInProgress r isSetEnabled = false := by
  cases i with
  | hexSetEnabled k e =>
    simp only [commandAdmission, State.admitHex] at ha
    split at ha
    · cases ha
    · rename_i hfree
      simpa using hfree
  | _ => cases hi

/-- A command that is admitted finds none in progress that stands in its way (R73, R183). -/
theorem State.cleared_of_admitted (ha : commandAdmission i s r = .admitted) : s.Cleared r i where
  detect p hp := (capPin_admitted hp ha).1
  cap k j p hk hj hs hp := by simpa using State.otherInProgress_false (capPin_admitted hp ha).2 hk hj hs
  hex k j hk hj hs hi := State.otherInProgress_false (commandAdmission_setEnabled hi ha) hk hj hs

/-! ## Every outcome of a micro-step keeps the invariant -/

/-- A requester with no bus operation ahead does not hold the lock. -/
theorem State.Inv.not_holder (h : s.Inv) (hc : (s.req r).cmd = some i)
    (hlast : (s.seq r).started = false ∨ (commandSteps s.cfg i)[(s.seq r).idx]? = none) : s.lock ≠ .held r := by
  intro hl
  obtain ⟨-, hs, j, hj, hidx⟩ := h.busyCommand r (.inl hl)
  obtain rfl : i = j := Option.some.inj (hc.symm.trans hj)
  rcases hlast with hn | hn
  · rw [hs] at hn; cases hn
  · rw [List.getElem?_eq_getElem hidx] at hn; cases hn

theorem State.MicroMove.inv (hm : s.MicroMove r i s.cfg t) (h : s.Inv) (hc : (s.req r).cmd = some i) : t.Inv := by
  have hr := State.lt_of_cmd hc
  have hcfg := hm.cfg
  have hlen := hm.length
  have hother : ∀ k, k ≠ r → t.req k = s.req k := fun k hk => hm.req_ne hk
  cases hm with
  | still => exact h
  | start hwait hhung hstarted hentry hsteps =>
    have hq := h.notStarted r hstarted
    refine h.port_running hc (State.cleared_of_admitted hentry) hcfg hlen h.memory rfl hwait (.inl rfl)
      (State.setSeq_req s r _ hr) hother rfl ?_ fun hl => absurd hl (h.not_holder hc (.inl hstarted))
    intro hmid
    rw [hq] at hmid
    simp [Seq.cleared] at hmid
  | refuse hwait hhung hstarted hentry =>
    exact h.port_cleared hcfg hlen h.memory rfl (if_neg (h.not_holder hc (.inl hstarted))).symm hwait
      (State.respond_req s r _ hr) hother
  | complete hwait hhung hlast hentry =>
    refine h.port_cleared hcfg hlen (by simpa using h.memory) (by simp) ?_ hwait (State.complete_req s r i hr) hother
    rw [State.complete_lock, if_neg (h.not_holder hc (.inr hlast))]
  | takeLock hop hlock =>
    refine h.lock_changed h.waitSorted ?_ (by simp [hlock]) ?_
    · rintro k hk e
      cases e; exact hop.notWaiting hk
    · rintro k (e | hk)
      · cases e; exact .inr ⟨_, _, hc, hop⟩
      · exact .inl (.inr hk)
  | joinWait hop hlock hne =>
    refine h.lock_changed (waitInsert_sorted s.wait r h.waitSorted) ?_ (fun k hk => hk) ?_
    · intro k hk e
      rcases (mem_waitInsert _ _ _).1 hk with rfl | hk
      · rw [hlock] at e; cases e; exact hne rfl
      · exact h.waitNotHolder k hk e
    · rintro k (e | hk)
      · exact .inl (.inl e)
      · rcases (mem_waitInsert _ _ _).1 hk with rfl | hk
        · exact .inr ⟨_, _, hc, hop⟩
        · exact .inl (.inr hk)
  | select hop hlock hhandle hselected hreply =>
    exact h.port_running hc (h.cleared hc hop.started) hcfg hlen
      (Environment.answer_wf h.memory _ _ _) rfl hop.notWaiting
      (.inl rfl) (State.setSeq_req _ r _ hr) hother hop.started (fun _ => hlock) fun _ => hop.lt
  | @payload b rx hop hlock hsent hreply =>
    obtain ⟨hs, -, hsel, hh⟩ := b.absorb_keeps rx (s.seq r)
    have hfree : ∀ u : State, u.lock = s.lock → (u.release r).lock = .free := fun u hu => by
      rw [State.release_lock, hu, if_pos hlock]
    have hlockt := hfree (s.phys r b.handle .payload b.addr (b.payload (s.seq r).tmp)).2 rfl
    refine h.port_running hc (h.cleared hc hop.started) hcfg hlen ?_ (by simp) hop.notWaiting (.inr ⟨hlock, hlockt⟩)
      ?_ hother (hs.trans hop.started) ?_ ?_
    · rw [State.setSeq_env, State.release_env]; exact Environment.answer_wf h.memory _ _ _
    · rw [State.setSeq_req _ _ _ (by simpa using hr), State.req_of_reqs_eq (State.release_reqs _ _)]; rfl
    · rw [hsel, hh, hop.notHung]; simp
    · intro hl
      rw [State.setSeq_lock, hlockt] at hl; cases hl
  | fail hop hlock hdue hreply =>
    refine h.port_cleared hcfg hlen ?_ (by simp) ?_ hop.notWaiting (State.raise_req (by simpa using hr)) hother
    · rw [State.raise_env]; exact Environment.answer_wf h.memory _ _ _
    · rw [State.raise_lock_of_held (by simpa using hlock), if_pos hlock]
  | hang hop hlock hdue hreply =>
    exact h.port_running hc (h.cleared hc hop.started) hcfg hlen (Environment.answer_wf h.memory _ _ _) rfl hop.notWaiting
      (.inl rfl) (State.setSeq_req _ r _ hr) hother hop.started (fun _ => hlock) fun _ => hop.lt

end

/-- A requester without a command neither holds the lock nor waits for it. -/
theorem State.Inv.idle_not_busy {s : State} {r : Nat} (h : s.Inv) (hc : (s.req r).cmd = none) :
    s.lock ≠ .held r ∧ r ∉ s.wait := by
  constructor
  · intro hl
    obtain ⟨-, -, i, hi, -⟩ := h.busyCommand r (.inl hl)
    rw [hc] at hi; cases hi
  · intro hw
    obtain ⟨-, -, i, hi, -⟩ := h.busyCommand r (.inr hw)
    rw [hc] at hi; cases hi

theorem State.Inv.kept : KeptByMoves State.Inv where
  agenda _ _ h := ⟨h.1, h.2, h.3, h.4, h.5, h.6, h.7, h.8, h.9, h.10, h.11⟩
  turn _ _ _ h := ⟨h.1, h.2, h.3, h.4, h.5, h.6, h.7, h.8, h.9, h.10, h.11⟩
  load s r i h hr hc := by
    obtain ⟨hl, hw⟩ := h.idle_not_busy hc
    exact h.port_cleared rfl (by simp) h.memory rfl (if_neg hl).symm hw (State.load_req s r i hr)
      fun k hk => State.load_req_ne s r k i hk
  micro s t r i h hc hm := hm.inv h hc
  illegal s r h hr hc := by
    obtain ⟨hl, hw⟩ := h.idle_not_busy hc
    refine h.port_cleared rfl (by simp) h.memory rfl (if_neg hl).symm hw (cmd := none) (res := [statusIllegal])
      (tmp := (s.seq r).tmp) ?_ fun k hk => s.answerIllegal_req_ne hk
    rw [s.answerIllegal_req hr, ← h.idleCleared r hc, ← hc]; rfl
  grant s r h hfree hmem := by
    refine h.lock_changed (h.waitSorted.filter _) ?_ (by simp [hfree]) ?_
    · rintro k hk e
      cases e; simp at hk
    · rintro k (e | hk)
      · cases e; exact .inl (.inr hmem)
      · exact .inl (.inr (List.mem_of_mem_filter hk))
  clock _ _ h := ⟨h.1, h.2, h.3, h.4, h.5, h.6, h.7, h.8, h.9, h.10, h.11⟩
  drift _ d h := ⟨h.1, Environment.drift_wf h.memory d, h.3, h.4, h.5, h.6, h.7, h.8, h.9, h.10, h.11⟩

end Sys2Proof.Machine
end

section
/-! SUPPORT. The discipline of the wire (40_bus_ops.md R132, R134 I2) under each outcome of a micro-step. -/

namespace Sys2Proof.Machine

/-- A trace that is ordered stays ordered when what follows its last transaction may follow it. -/
theorem wireOrdered_append {before : Option WireEvent} {w : List WireEvent} {e : WireEvent}
    (hw : wireOrdered before w) (he : e.follows (w.getLast?.or before)) : wireOrdered before (w ++ [e]) := by
  induction w generalizing before with
  | nil => exact ⟨he, trivial⟩
  | cons x rest ih =>
    refine ⟨hw.1, ih hw.2 ?_⟩
    cases rest with
    | nil => exact he
    | cons y ys => simpa [List.getLast?_cons_cons, List.getLast?_cons] using he

section
variable {s t : State} {r : Nat} {i : Instr}

/-- What keeps the discipline: the trace is ordered, and of the requesters whose payload is due none is new. -/
theorem State.WireInv.of_no_new (h : s.WireInv) (hcfg : t.cfg = s.cfg) (hwire : t.wire = s.wire)
    (hport : ∀ k, (t.seq k).selected = true → (t.seq k).hung = false →
      (t.req k).cmd = (s.req k).cmd ∧ t.seq k = s.seq k) : t.WireInv where
  ordered := hwire ▸ h.ordered
  pending k hs hh := by
    obtain ⟨hcmd, hseq⟩ := hport k hs hh
    rw [hcmd, hcfg, hseq, hwire]
    exact h.pending k (hseq ▸ hs) (hseq ▸ hh)

/-- A transaction of the holder of the lock that may follow the last one. -/
theorem State.WireInv.transaction (h : s.WireInv) (hinv : s.Inv) (hlock : s.lock = .held r) {e : WireEvent}
    (hwire : t.wire = s.wire ++ [e]) (hfollows : e.follows s.wire.getLast?)
    (hother : ∀ k, k ≠ r → t.seq k = s.seq k)
    (hself : (t.seq r).selected = true → (t.seq r).hung = false →
      ∃ i b n, (t.req r).cmd = some i ∧ (commandSteps t.cfg i)[(t.seq r).idx]? = some b ∧ b.handle = .channel n ∧
        e.selects r n) : t.WireInv where
  ordered := by
    rw [hwire]
    exact wireOrdered_append h.ordered (by simpa using hfollows)
  pending k hs hh := by
    by_cases hk : k = r
    · subst hk
      obtain ⟨i, b, n, hi, hb, hn, hsel⟩ := hself hs hh
      exact ⟨i, b, n, e, hi, hb, hn, by rw [hwire]; simp, hsel⟩
    · rw [hother k hk] at hs
      have hl := hinv.midOperation k (.inl hs)
      rw [hlock] at hl; cases hl; exact absurd rfl hk

/-- The transaction that is due may follow the last one on the wire (R132, R134 I2). -/
theorem State.WireInv.due_follows (h : s.WireInv) (hc : (s.req r).cmd = some i) {b : BusStep}
    (hop : s.AtOperation r i s.cfg b) {role : WireRole} {a : Addr} {ops : List BusOp} (hdue : s.Due r b role a ops)
    (answer : Reply) : WireEvent.follows ⟨r, b.handle, role, a, ops, answer⟩ s.wire.getLast? := by
  rcases hdue with ⟨n, hh, -, rfl, rfl, rfl⟩ | ⟨hsent, rfl, -, -⟩
  · rw [hh]; exact ⟨rfl, rfl⟩
  · cases hh : b.handle with
    | direct => trivial
    | channel n =>
      have hsel : (s.seq r).selected = true := by simpa [hh] using hsent
      obtain ⟨j, b', n', e, hj, hb', hn', hlast, hsels⟩ := h.pending r hsel hop.notHung
      obtain rfl : i = j := Option.some.inj (hc.symm.trans hj)
      obtain rfl : b = b' := Option.some.inj (hop.next.symm.trans hb')
      obtain rfl : n = n' := by rw [hh] at hn'; exact BusHandle.channel.inj hn'
      exact ⟨e, hlast, hsels⟩

theorem State.MicroMove.wireInv (hm : s.MicroMove r i s.cfg t) (hinv : s.Inv) (h : s.WireInv)
    (hc : (s.req r).cmd = some i) : t.WireInv := by
  have hr := State.lt_of_cmd hc
  have hcfg := hm.cfg
  have hother : ∀ k, k ≠ r → t.req k = s.req k := fun k hk => hm.req_ne hk
  have hseqs : ∀ k, k ≠ r → t.seq k = s.seq k := fun k hk => hm.seq_ne hk
  have ended : ∀ {cmd tmp res}, t.req r = ⟨cmd, Seq.cleared tmp, res⟩ → (t.seq r).selected = false := fun e => by
    rw [State.seq_of_req e]; rfl
  have quiet : (t.seq r).selected = false → ∀ k, (t.seq k).selected = true → (t.seq k).hung = false →
      (t.req k).cmd = (s.req k).cmd ∧ t.seq k = s.seq k := fun hsel k hs _ => by
    have hk : k ≠ r := by rintro rfl; rw [hsel] at hs; cases hs
    exact ⟨by rw [hother k hk], hseqs k hk⟩
  have notSelected : s.lock ≠ .held r → (s.seq r).selected = false := fun hne => by
    by_contra hs
    exact hne (hinv.midOperation r (.inl (by simpa using hs)))
  cases hm with
  | still => exact h
  | start hwait hhung hstarted hentry hsteps =>
    refine h.of_no_new hcfg rfl (quiet ?_)
    rw [State.setSeq_seq _ _ hr]
    exact notSelected (hinv.not_holder hc (.inl hstarted))
  | refuse => exact h.of_no_new hcfg rfl (quiet (ended (State.respond_req s r _ hr)))
  | complete => exact h.of_no_new hcfg (by simp) (quiet (ended (State.complete_req s r i hr)))
  | takeLock hop hlock => exact h.of_no_new rfl rfl fun k _ _ => ⟨rfl, rfl⟩
  | joinWait hop hlock hne => exact h.of_no_new rfl rfl fun k _ _ => ⟨rfl, rfl⟩
  | @select b n rx hop hlock hhandle hselected hreply =>
    refine h.transaction hinv hlock rfl (h.due_follows hc hop (.inl ⟨n, hhandle, hselected, rfl, rfl, rfl⟩) _) hseqs ?_
    intro _ _
    refine ⟨i, b, n, ?_, ?_, hhandle, rfl, hhandle, rfl, rfl, rfl, rx, hreply⟩
    · rw [State.setSeq_cmd _ _ (by simpa using hr)]; exact hc
    · rw [State.setSeq_seq _ _ (by simpa using hr)]; exact hop.next
  | @payload b rx hop hlock hsent hreply =>
    refine h.transaction hinv hlock (by simp; rfl) (h.due_follows hc hop (.inr ⟨hsent, rfl, rfl, rfl⟩) _) hseqs ?_
    intro hs
    rw [State.setSeq_seq _ _ (by simpa using hr), (b.absorb_keeps rx (s.seq r)).2.2.1] at hs
    cases hs
  | fail hop hlock hdue hreply =>
    refine h.transaction hinv hlock (by simp; rfl) (h.due_follows hc hop hdue _) hseqs ?_
    intro hs
    rw [ended (State.raise_req (by simpa using hr))] at hs
    cases hs
  | hang hop hlock hdue hreply =>
    refine h.transaction hinv hlock rfl (h.due_follows hc hop hdue _) hseqs ?_
    intro _ hh
    rw [State.hang, State.setSeq_seq _ _ (by simpa using hr)] at hh
    cases hh

end

/-- Both invariants together, as the wire's needs the other. -/
theorem State.WireInv.kept : KeptByMoves fun s => s.Inv ∧ s.WireInv where
  agenda s rest h := ⟨State.Inv.kept.agenda s rest h.1, h.2.of_no_new rfl rfl fun _ _ _ => ⟨rfl, rfl⟩⟩
  turn s r n h := ⟨State.Inv.kept.turn s r n h.1, h.2.of_no_new rfl rfl fun _ _ _ => ⟨rfl, rfl⟩⟩
  load s r i h hr hc := by
    refine ⟨State.Inv.kept.load s r i h.1 hr hc, h.2.of_no_new rfl rfl fun k hs _ => ?_⟩
    have hk : k ≠ r := by rintro rfl; rw [State.load_seq i hr] at hs; cases hs
    rw [State.seq, State.load_req_ne s r k i hk]
    exact ⟨rfl, rfl⟩
  micro s t r i h hc hm := ⟨hm.inv h.1 hc, hm.wireInv h.1 h.2 hc⟩
  illegal s r h hr hc := by
    refine ⟨State.Inv.kept.illegal s r h.1 hr hc, h.2.of_no_new rfl rfl fun k _ _ => ?_⟩
    by_cases hk : k = r
    · subst hk; rw [State.seq, s.answerIllegal_req hr]; exact ⟨rfl, rfl⟩
    · rw [State.seq, s.answerIllegal_req_ne hk]; exact ⟨rfl, rfl⟩
  grant s r h hfree hmem := ⟨State.Inv.kept.grant s r h.1 hfree hmem, h.2.of_no_new rfl rfl fun _ _ _ => ⟨rfl, rfl⟩⟩
  clock s c h := ⟨State.Inv.kept.clock s c h.1, h.2.of_no_new rfl rfl fun _ _ _ => ⟨rfl, rfl⟩⟩
  drift s d h := ⟨State.Inv.kept.drift s d h.1, h.2.of_no_new rfl rfl fun _ _ _ => ⟨rfl, rfl⟩⟩

end Sys2Proof.Machine
end

section
/-! SUPPORT. One update of either event unit is the same scan of six cells in ascending order (44_buttons.md R216,
45_hexpansion.md R236): a cell reports or stays silent, a report takes a sample and stores a new value. What such a scan
leaves is said here once; the two units are tied to it below. -/

namespace Sys2Proof.Machine

/-! ## The samples of one update (R217) -/

/-- `n` samples of one update, one after the other. -/
def Sampler.samples (mode : TsSampling) : Nat → Sampler → List Timestamp × Sampler
  | 0, m => ([], m)
  | n + 1, m =>
    ((m.sample mode).1 :: (Sampler.samples mode n (m.sample mode).2).1, (Sampler.samples mode n (m.sample mode).2).2)

/-- With `per_update` every sample after the first is the first. -/
theorem Sampler.samples_taken (n : Nat) (c : Clock) (ts : Timestamp) :
    Sampler.samples .perUpdate n ⟨c, some ts⟩ = (List.replicate n ts, ⟨c, some ts⟩) := by
  induction n with
  | zero => rfl
  | succ n ih => simp only [Sampler.samples, Sampler.sample, ih, List.replicate_succ]

/-- With `per_entry` every sample is a reading. -/
theorem Sampler.samples_perEntry (n : Nat) (m : Sampler) :
    (Sampler.samples .perEntry n m).1 = (m.clock.readings n).1 ∧
    (Sampler.samples .perEntry n m).2.clock = (m.clock.readings n).2 := by
  induction n generalizing m with
  | zero => exact ⟨rfl, rfl⟩
  | succ n ih =>
    obtain ⟨hstamps, hclock⟩ := ih (m.sample .perEntry).2
    simp only [Sampler.samples, hstamps, hclock]
    exact ⟨rfl, rfl⟩

/-- The samples of an update that starts on clock `c` are the clock's samples. -/
theorem Sampler.samples_eq (mode : TsSampling) (n : Nat) (c : Clock) :
    (Sampler.samples mode n ⟨c, none⟩).1 = (c.samples mode n).1 ∧
    (Sampler.samples mode n ⟨c, none⟩).2.clock = (c.samples mode n).2 := by
  cases mode with
  | perEntry => exact Sampler.samples_perEntry n ⟨c, none⟩
  | perUpdate =>
    cases n with
    | zero => exact ⟨rfl, rfl⟩
    | succ n => simp [Sampler.samples, Sampler.sample, Sampler.samples_taken, Clock.samples, List.replicate_succ]

/-! ## A clock whose host keeps its promise (R29, R217) -/

/-- The foreseen readings rise from the last one. -/
def Clock.Rising (c : Clock) : Prop := (c.last :: c.script).Pairwise (fun x y => x.toNat ≤ y.toNat)

/-- Timestamps that were taken between two states of the clock, in rising order. -/
structure Clock.Between (c after : Clock) (stamps : List Timestamp) : Prop where
  rising : after.Rising
  last_le : c.last.toNat ≤ after.last.toNat
  sorted : stamps.Pairwise (fun x y => x.toNat ≤ y.toNat)
  bounds : ∀ t ∈ stamps, c.last.toNat ≤ t.toNat ∧ t.toNat ≤ after.last.toNat

/-- A reading is not below the last one, and becomes the last one. -/
theorem Clock.read_rising {c : Clock} (h : c.Rising) :
    c.read.2.Rising ∧ c.last.toNat ≤ c.read.1.toNat ∧ c.read.2.last = c.read.1 := by
  unfold Clock.read
  split
  · rename_i t rest hscript
    rw [Clock.Rising, hscript, List.pairwise_cons] at h
    exact ⟨h.2, h.1 t (by simp), rfl⟩
  · rename_i hscript
    refine ⟨by simp [Clock.Rising, hscript], ?_, rfl⟩
    dsimp only
    split
    · assumption
    · exact le_rfl

theorem Clock.readings_between (n : Nat) {c : Clock} (h : c.Rising) :
    c.Between (c.readings n).2 (c.readings n).1 := by
  induction n generalizing c with
  | zero => exact ⟨h, le_rfl, List.Pairwise.nil, by simp [Clock.readings]⟩
  | succ n ih =>
    obtain ⟨hrising, hle, hlast⟩ := Clock.read_rising h
    obtain ⟨hrising', hle', hsorted, hbounds⟩ := ih hrising
    rw [hlast] at hle' hbounds
    refine ⟨hrising', hle.trans hle', List.pairwise_cons.2 ⟨fun t ht => (hbounds t ht).1, hsorted⟩, ?_⟩
    refine List.forall_mem_cons.2 ⟨⟨hle, hle'⟩, fun t ht => ?_⟩
    exact ⟨hle.trans (hbounds t ht).1, (hbounds t ht).2⟩

theorem Clock.samples_between (mode : TsSampling) (n : Nat) {c : Clock} (h : c.Rising) :
    c.Between (c.samples mode n).2 (c.samples mode n).1 := by
  cases mode with
  | perEntry => exact Clock.readings_between n h
  | perUpdate =>
    obtain ⟨hrising, hle, hlast⟩ := Clock.read_rising h
    cases n with
    | zero => exact ⟨h, le_rfl, List.Pairwise.nil, by simp [Clock.samples]⟩
    | succ n =>
      refine ⟨hrising, hlast ▸ hle, ?_, ?_⟩
      · simp [Clock.samples, List.pairwise_replicate]
      · intro t ht
        obtain rfl : t = c.read.1 := by simpa [Clock.samples] using ht
        exact ⟨hle, by rw [← hlast]; exact le_rfl⟩

/-! ## The scan -/

/-- What a scan has done so far. -/
structure Scan (α ε : Type) where
  cells : Vector α 6
  sampler : Sampler
  events : List ε

section
variable {α ε : Type} (mode : TsSampling) (report : Fin 6 → α → Option (Timestamp → ε × α))

/-- Visit one cell: silent, or an event and a new value, both made with a sample. -/
def Scan.visit (acc : Scan α ε) (k : Fin 6) : Scan α ε :=
  match report k acc.cells[k] with
  | none => acc
  | some make =>
    { cells := acc.cells.set k.val (make (acc.sampler.sample mode).1).2 k.isLt
      sampler := (acc.sampler.sample mode).2
      events := acc.events ++ [(make (acc.sampler.sample mode).1).1] }

/-- What the visits of the cells `l` make of a scan, where an event names its cell and its timestamp. -/
structure Scan.Outcome (index : ε → Fin 6) (stamp : ε → Timestamp) (l : List (Fin 6)) (acc out : Scan α ε)
    (new : List ε) : Prop where
  events : out.events = acc.events ++ new
  sampled : new.map stamp = (Sampler.samples mode new.length acc.sampler).1
  sampler : out.sampler = (Sampler.samples mode new.length acc.sampler).2
  ascending : (new.map index).Sublist l
  unvisited : ∀ k : Fin 6, k ∉ l → out.cells[k] = acc.cells[k]
  silent : ∀ k : Fin 6, report k acc.cells[k] = none → out.cells[k] = acc.cells[k] ∧ ∀ e ∈ new, index e ≠ k
  reported : ∀ k : Fin 6, k ∈ l → ∀ make, report k acc.cells[k] = some make →
    ∃ ts, (make ts).1 ∈ new ∧ out.cells[k] = (make ts).2

theorem Scan.foldl_visit {index : ε → Fin 6} {stamp : ε → Timestamp}
    (hmake : ∀ k c make ts, report k c = some make → index (make ts).1 = k ∧ stamp (make ts).1 = ts)
    (l : List (Fin 6)) (hl : l.Nodup) (acc : Scan α ε) :
    ∃ new, Scan.Outcome mode report index stamp l acc (l.foldl (Scan.visit mode report) acc) new := by
  induction l generalizing acc with
  | nil => exact ⟨[], by simp, rfl, rfl, by simp, fun _ _ => rfl, fun _ _ => ⟨rfl, by simp⟩, by simp⟩
  | cons k l ih =>
    obtain ⟨hk, hl⟩ := List.nodup_cons.1 hl
    rw [List.foldl_cons]
    cases hreport : report k acc.cells[k] with
    | none =>
      have hvisit : acc.visit mode report k = acc := by rw [Scan.visit, hreport]
      rw [hvisit]
      obtain ⟨new, h⟩ := ih hl acc
      refine ⟨new, h.events, h.sampled, h.sampler, h.ascending.cons k, ?_, h.silent, ?_⟩
      · exact fun j hj => h.unvisited j fun hjl => hj (List.mem_cons_of_mem k hjl)
      · intro j hj make hmk
        rcases List.mem_cons.1 hj with rfl | hj
        · rw [hreport] at hmk; cases hmk
        · exact h.reported j hj make hmk
    | some make =>
      obtain ⟨hindex, hstamp⟩ := hmake k _ make (acc.sampler.sample mode).1 hreport
      have hvisit : acc.visit mode report k =
          { cells := acc.cells.set k.val (make (acc.sampler.sample mode).1).2 k.isLt
            sampler := (acc.sampler.sample mode).2
            events := acc.events ++ [(make (acc.sampler.sample mode).1).1] } := by rw [Scan.visit, hreport]
      have hself : (acc.visit mode report k).cells[k] = (make (acc.sampler.sample mode).1).2 := by simp [hvisit]
      have hother : ∀ j : Fin 6, j ≠ k → (acc.visit mode report k).cells[j] = acc.cells[j] := fun j hj => by
        rw [hvisit]
        exact Vector.getElem_set_ne k.isLt j.isLt fun e => hj (Fin.ext e.symm)
      obtain ⟨new, h⟩ := ih hl (acc.visit mode report k)
      have hnew := h.unvisited k hk
      refine ⟨(make (acc.sampler.sample mode).1).1 :: new, ?_, ?_, ?_, ?_, ?_, ?_, ?_⟩
      · rw [h.events, hvisit]; simp
      · rw [List.map_cons, hstamp, h.sampled, hvisit]; rfl
      · rw [h.sampler, hvisit]; rfl
      · rw [List.map_cons, hindex]; exact h.ascending.cons_cons k
      · intro j hj
        rw [List.mem_cons, not_or] at hj
        rw [h.unvisited j hj.2, hother j hj.1]
      · intro j hj
        have hjk : j ≠ k := by rintro rfl; rw [hreport] at hj; cases hj
        rw [← hother j hjk] at hj ⊢
        obtain ⟨hcell, hnone⟩ := h.silent j hj
        exact ⟨hcell, List.forall_mem_cons.2 ⟨hindex ▸ hjk.symm, hnone⟩⟩
      · intro j hj make' hmk
        by_cases hjk : j = k
        · subst hjk
          obtain rfl : make = make' := Option.some.inj (hreport.symm.trans hmk)
          exact ⟨_, List.mem_cons_self, hnew.trans hself⟩
        · rw [← hother j hjk] at hmk
          obtain ⟨ts, hts, hcell⟩ := h.reported j ((List.mem_cons.1 hj).resolve_left hjk) make' hmk
          exact ⟨ts, List.mem_cons_of_mem _ hts, hcell⟩

end

/-! ## A whole update -/

theorem sixIndexes_eq : sixIndexes = List.finRange 6 := by decide

/-- What one whole update of six cells makes of the cells, the clock and the events (R216, R217, R236). -/
structure UpdateOutcome {α ε : Type} (mode : TsSampling) (report : Fin 6 → α → Option (Timestamp → ε × α))
    (index : ε → Fin 6) (stamp : ε → Timestamp) (cells : Vector α 6) (clock : Clock) (cells' : Vector α 6)
    (clock' : Clock) (events : List ε) : Prop where
  stamps : events.map stamp = (clock.samples mode events.length).1
  clock : clock' = (clock.samples mode events.length).2
  ascending : events.Pairwise fun e f => index e < index f
  silent : ∀ k : Fin 6, report k cells[k] = none → cells'[k] = cells[k] ∧ ∀ e ∈ events, index e ≠ k
  reported : ∀ (k : Fin 6) make, report k cells[k] = some make →
    ∃ ts, (make ts).1 ∈ events ∧ cells'[k] = (make ts).2

theorem updateOutcome {α ε : Type} {mode : TsSampling} {report : Fin 6 → α → Option (Timestamp → ε × α)}
    {index : ε → Fin 6} {stamp : ε → Timestamp}
    (hmake : ∀ k c make ts, report k c = some make → index (make ts).1 = k ∧ stamp (make ts).1 = ts)
    {cells : Vector α 6} {clock : Clock} {out : Scan α ε}
    (hout : out = sixIndexes.foldl (Scan.visit mode report) ⟨cells, ⟨clock, none⟩, []⟩) :
    UpdateOutcome mode report index stamp cells clock out.cells out.sampler.clock out.events := by
  obtain ⟨new, h⟩ := Scan.foldl_visit mode report hmake sixIndexes (by decide) ⟨cells, ⟨clock, none⟩, []⟩
  rw [← hout] at h
  obtain rfl : out.events = new := h.events
  obtain ⟨hstamps, hclock⟩ := Sampler.samples_eq mode out.events.length clock
  refine ⟨h.sampled.trans hstamps, ?_, ?_, h.silent, ?_⟩
  · rw [h.sampler, hclock]
  · rw [← List.pairwise_map (f := index) (R := (· < ·))]
    exact List.Pairwise.sublist h.ascending (by decide)
  · exact fun k make hk => h.reported k (by rw [sixIndexes_eq]; exact List.mem_finRange k) make hk

/-! ## The two units -/

/-- What a button reports in an update: its new level, where none or another one is stored (R216). -/
def buttonReport (P : Params) (S : Snapshot) (b : Fin 6) (stored : Option Observation) :
    Option (Timestamp → ButtonEvent × Option Observation) :=
  if buttonChanged stored (buttonLevel P S b) then
    some fun ts => (⟨b, stored, ⟨buttonLevel P S b, ts⟩⟩, some ⟨buttonLevel P S b, ts⟩)
  else none

/-- What a slot reports in an update (R236, R237). -/
def slotReport (P : Params) (S : Snapshot) (k : Fin 6) (stored : SlotState) :
    Option (Timestamp → SlotEvent × SlotState) :=
  (slotTransition stored (slotLevel P S k == .occupied)).map fun x ts => (⟨k, ts, x.1⟩, x.2)

/-- The scan of the buttons as a scan of six cells. -/
def ButtonScan.toScan (acc : ButtonScan) : Scan (Option Observation) ButtonEvent := ⟨acc.btn, acc.sampler, acc.events⟩

/-- The scan of the slots as a scan of six cells. -/
def SlotScan.toScan (acc : SlotScan) : Scan SlotState SlotEvent := ⟨acc.hex, acc.sampler, acc.events⟩

theorem scanButton_toScan (P : Params) (S : Snapshot) (acc : ButtonScan) (b : Fin 6) :
    (scanButton P S acc b).toScan = acc.toScan.visit P.tsSampling (buttonReport P S) b := by
  by_cases h : buttonChanged acc.btn[b] (buttonLevel P S b) = true <;>
    simp only [scanButton, Scan.visit, buttonReport, ButtonScan.toScan, h, if_true, if_false, Bool.false_eq_true]

theorem scanSlot_toScan (P : Params) (S : Snapshot) (acc : SlotScan) (k : Fin 6) :
    (scanSlot P S acc k).toScan = acc.toScan.visit P.tsSampling (slotReport P S) k := by
  unfold scanSlot Scan.visit slotReport
  dsimp only [SlotScan.toScan]
  cases slotTransition acc.hex[k] (slotLevel P S k == .occupied) <;> rfl

theorem scanButtons_toScan (P : Params) (S : Snapshot) (btn : Vector (Option Observation) 6) (c : Clock) :
    (scanButtons P S btn c).toScan =
      sixIndexes.foldl (Scan.visit P.tsSampling (buttonReport P S)) ⟨btn, ⟨c, none⟩, []⟩ :=
  (List.foldl_hom ButtonScan.toScan fun acc b => (scanButton_toScan P S acc b).symm).symm

theorem scanSlots_toScan (P : Params) (S : Snapshot) (hex : Vector SlotState 6) (c : Clock) :
    (scanSlots P S hex c).toScan =
      sixIndexes.foldl (Scan.visit P.tsSampling (slotReport P S)) ⟨hex, ⟨c, none⟩, []⟩ :=
  (List.foldl_hom SlotScan.toScan fun acc k => (scanSlot_toScan P S acc k).symm).symm

/-- One update of the buttons (R216, R217). -/
theorem scanButtons_outcome (P : Params) (S : Snapshot) (btn : Vector (Option Observation) 6) (c : Clock) :
    UpdateOutcome P.tsSampling (buttonReport P S) ButtonEvent.button (fun e => e.now.ts) btn c
      (scanButtons P S btn c).btn (scanButtons P S btn c).sampler.clock (scanButtons P S btn c).events := by
  have hmake (b : Fin 6) (stored : Option Observation) (make : Timestamp → ButtonEvent × Option Observation)
      (ts : Timestamp) (h : buttonReport P S b stored = some make) :
      (make ts).1.button = b ∧ (make ts).1.now.ts = ts := by
    unfold buttonReport at h
    split at h <;> cases h
    exact ⟨rfl, rfl⟩
  have h := updateOutcome (index := ButtonEvent.button) (stamp := fun e => e.now.ts) hmake (scanButtons_toScan P S btn c)
  dsimp only [ButtonScan.toScan] at h
  exact h

/-- One update of the slots (R236, R217). -/
theorem scanSlots_outcome (P : Params) (S : Snapshot) (hex : Vector SlotState 6) (c : Clock) :
    UpdateOutcome P.tsSampling (slotReport P S) SlotEvent.slot SlotEvent.timestamp hex c
      (scanSlots P S hex c).hex (scanSlots P S hex c).sampler.clock (scanSlots P S hex c).events := by
  have hmake (k : Fin 6) (stored : SlotState) (make : Timestamp → SlotEvent × SlotState) (ts : Timestamp)
      (h : slotReport P S k stored = some make) : (make ts).1.slot = k ∧ (make ts).1.timestamp = ts := by
    obtain ⟨x, -, rfl⟩ := Option.map_eq_some_iff.1 h
    exact ⟨rfl, rfl⟩
  have h := updateOutcome hmake (scanSlots_toScan P S hex c)
  dsimp only [SlotScan.toScan] at h
  exact h

/-! ## Records (R107, R108) -/

theorem timestampBytes_eq_littleEndian (t : Timestamp) : timestampBytes t = littleEndian t := by
  have hbyte (k : Nat) : t.extractLsb' (8 * k) 8 = BitVec.ofNat 8 (t.toNat / 256 ^ k) := by
    apply BitVec.eq_of_toNat_eq
    rw [BitVec.extractLsb'_toNat, BitVec.toNat_ofNat, Nat.shiftRight_eq_div_pow, Nat.pow_mul]
  exact congrArg₂ _ (hbyte 0) (congrArg₂ _ (hbyte 1) (congrArg₂ _ (hbyte 2) (congrArg₂ _ (hbyte 3)
    (congrArg₂ _ (hbyte 4) (congrArg₂ _ (hbyte 5) (congrArg₂ _ (hbyte 6) (congrArg₂ _ (hbyte 7) rfl)))))))

theorem levelWeight_eq (k : Nat) (l : ButtonLevel) : levelWeight k l = if l = .pressed then 2 ^ k else 0 := by
  cases l <;> simp

end Sys2Proof.Machine
end

section
/-! SUPPORT. The local state (10_state.md sections 3 to 6): which of it the end of each command writes, what keeps a
property of it, and requesters that perform no step. -/

namespace Sys2Proof.Machine

/-! ## What the end of a command writes -/

section
variable {i : Instr} (held : List Byte) (s : State)

theorem commandFinish_btn (h : ∀ S, i ≠ .btnUpdate S) : (commandFinish i held s).1.btn = s.btn := by
  cases i with
  | btnUpdate S => exact absurd rfl (h S)
  | _ => rfl

theorem commandFinish_hex (h : ∀ S, i ≠ .hexUpdate S) (h' : ∀ k e, i ≠ .hexSetEnabled k e) :
    (commandFinish i held s).1.hex = s.hex := by
  cases i with
  | hexUpdate S => exact absurd rfl (h S)
  | hexSetEnabled k e => exact absurd rfl (h' k e)
  | _ => rfl

theorem commandFinish_clock (h : ∀ S, i ≠ .btnUpdate S) (h' : ∀ S, i ≠ .hexUpdate S) :
    (commandFinish i held s).1.clock = s.clock := by
  cases i with
  | btnUpdate S => exact absurd rfl (h S)
  | hexUpdate S => exact absurd rfl (h' S)
  | _ => rfl

theorem pinIndex_inj {p q : Pin} (h : (pinIndex p).val = (pinIndex q).val) : p = q := by
  obtain ⟨c, port, bit⟩ := p
  obtain ⟨c', port', bit'⟩ := q
  simp only [pinIndex] at h
  simp only [Pin.mk.injEq, Fin.ext_iff]
  omega

theorem State.capOf_setCap_self (p : Pin) (t : CapTag) : (s.setCap p t).capOf p = t :=
  Vector.getElem_set_self (pinIndex p).isLt

theorem State.capOf_setCap_ne {p q : Pin} (t : CapTag) (h : q ≠ p) : (s.setCap q t).capOf p = s.capOf p :=
  Vector.getElem_set_ne (pinIndex q).isLt (pinIndex p).isLt fun e => h (pinIndex_inj e)

/-- The end of a command writes at most one tag, and none to Free: the conversions their pin's, `HEX_SET_ENABLED` its
slot's detect pin's (R28, R184 to R186, R243). -/
theorem commandFinish_cap (i : Instr) :
    (commandFinish i held s).1.cap = s.cap ∨
    ∃ q t, (i = .capIntoOutput q ∨ i = .capIntoInput q ∨ i = .capIntoLed q ∨
        ∃ k e, i = .hexSetEnabled k e ∧ s.cfg.hexDetectPin[k] = q) ∧
      t ≠ .free ∧ (commandFinish i held s).1.cap = (s.setCap q t).cap := by
  cases i with
  | capIntoOutput q => exact .inr ⟨q, .output, .inl rfl, by decide, rfl⟩
  | capIntoInput q => exact .inr ⟨q, .input, .inr (.inl rfl), by decide, rfl⟩
  | capIntoLed q => exact .inr ⟨q, .led, .inr (.inr (.inl rfl)), by decide, rfl⟩
  | hexSetEnabled k e =>
    exact .inr ⟨_, if e then .input else .output, .inr (.inr (.inr ⟨k, e, rfl, rfl⟩)), by cases e <;> decide, rfl⟩
  | _ => exact .inl rfl

/-- A tag that the end of a command changes is that of the pin it converts, or of the slot it enables. -/
theorem commandFinish_capOf {p : Pin}
    (hconv : ∀ q, i = .capIntoOutput q ∨ i = .capIntoInput q ∨ i = .capIntoLed q → q ≠ p)
    (hslot : ∀ k e, i = .hexSetEnabled k e → s.cfg.hexDetectPin[k] ≠ p) :
    (commandFinish i held s).1.capOf p = s.capOf p := by
  rcases commandFinish_cap held s i with e | ⟨q, t, hq, -, e⟩
  · simp only [State.capOf, e]
  · have hne : q ≠ p := by
      rcases hq with h | h | h | ⟨k, en, h, rfl⟩
      · exact hconv q (.inl h)
      · exact hconv q (.inr (.inl h))
      · exact hconv q (.inr (.inr h))
      · exact hslot k en h
    rw [State.capOf, e]
    exact s.capOf_setCap_ne t hne

theorem commandFinish_capOf_ne_free (i : Instr) {p : Pin} (h : s.capOf p ≠ .free) :
    (commandFinish i held s).1.capOf p ≠ .free := by
  rcases commandFinish_cap held s i with e | ⟨q, t, -, ht, e⟩
  · rw [State.capOf, e]; exact h
  · have hcap : (commandFinish i held s).1.capOf p = (s.setCap q t).capOf p := by simp only [State.capOf, e]
    rw [hcap]
    by_cases hq : q = p
    · subst hq; rw [s.capOf_setCap_self]; exact ht
    · rw [s.capOf_setCap_ne t hq]; exact h

/-- The slots a command's end leaves alone: all but that of `HEX_SET_ENABLED` and, for `HEX_UPDATE`, all that are
silent. -/
theorem commandFinish_slot {k : Fin 6} (hslot : ∀ e, i ≠ .hexSetEnabled k e)
    (hsilent : ∀ S, i = .hexUpdate S → slotReport s.cfg S k s.hex[k] = none) :
    (commandFinish i held s).1.hex[k] = s.hex[k] := by
  cases i with
  | hexUpdate S => exact ((scanSlots_outcome s.cfg S s.hex s.clock).silent k (hsilent S rfl)).1
  | hexSetEnabled j e =>
    exact Vector.getElem_set_ne j.isLt k.isLt fun h => hslot e (by rw [Fin.ext h])
  | _ => rfl

/-- An observed button stays observed (R26). -/
theorem commandFinish_observed (i : Instr) {b : Fin 6} (h : s.btn[b] ≠ none) :
    (commandFinish i held s).1.btn[b] ≠ none := by
  cases i with
  | btnUpdate S =>
    have hout := scanButtons_outcome s.cfg S s.btn s.clock
    cases hreport : buttonReport s.cfg S b s.btn[b] with
    | none => exact (hout.silent b hreport).1.symm ▸ h
    | some make =>
      obtain ⟨ts, -, hcell⟩ := hout.reported b make hreport
      have hsome : (make ts).2 ≠ none := by
        unfold buttonReport at hreport
        split at hreport <;> cases hreport
        simp
      exact hcell.symm ▸ hsome
  | _ => exact h

end

/-! ## Properties of the local state -/

/-- A property of the local state that the end of command `i` keeps is kept by the whole meaning. -/
theorem exec_keeps_local {Q : State → Prop} {i : Instr} {s t : State} (he : exec i s = .next t)
    (hlocal : ∀ {u v : State}, Q u → v.btn = u.btn → v.hex = u.hex → v.cap = u.cap → v.clock = u.clock → Q v)
    (hfinish : ∀ held u, Q u → u.cfg = s.cfg → Q (commandFinish i held u).1) (hq : Q s) : Q t := by
  refine exec_keeps_moves he hq (fun _ _ => hlocal hq rfl rfl rfl rfl) fun u v hu hcfg _ hm => ?_
  rcases hm.local_or_complete with ⟨hb, hh, hc, hk⟩ | ⟨rfl, -⟩
  · exact hlocal hu hb hh hc hk
  · exact hlocal (hfinish (u.seq s.turn.requester).held u hu hcfg) rfl rfl rfl rfl

/-- A property of `BTN`, `HEX` and `CAP` that the end of every command keeps is kept by every move. -/
theorem KeptByMoves.of_local {Q : State → Prop}
    (hlocal : ∀ {u v : State}, Q u → v.btn = u.btn → v.hex = u.hex → v.cap = u.cap → Q v)
    (hfinish : ∀ i held u, Q u → Q (commandFinish i held u).1) : KeptByMoves Q where
  agenda _ _ h := hlocal h rfl rfl rfl
  turn _ _ _ h := hlocal h rfl rfl rfl
  load _ _ _ h _ _ := hlocal h rfl rfl rfl
  micro s t r i h _ hm := by
    rcases hm.local_or_complete with ⟨hb, hh, hc, -⟩ | ⟨rfl, -⟩
    · exact hlocal h hb hh hc
    · exact hlocal (hfinish i (s.seq r).held s h) rfl rfl rfl
  illegal _ _ h _ _ := hlocal h rfl rfl rfl
  grant _ _ h _ _ := hlocal h rfl rfl rfl
  clock _ _ h := hlocal h rfl rfl rfl
  drift _ _ h := hlocal h rfl rfl rfl

/-! ## Requesters that perform no step -/

section
variable {s : State} {r : Nat} {i : Instr} {P : Params}

/-- A turn whose micro-steps change nothing changes nothing, however long it is. -/
theorem State.turnOn_of_still (h : s.micro r i P = s) (n : Nat) : s.turnOn r i P n = s := by
  induction n with
  | zero => rfl
  | succ n ih =>
    cases hc : (s.req r).cmd with
    | none => exact State.turnOn_of_idle hc
    | some j => simp only [State.turnOn, State.advance, hc, Option.isNone_some, Bool.false_eq_true, if_false, h]; exact ih

theorem State.micro_of_waiting (h : r ∈ s.wait) : s.micro r i P = s := by
  simp [State.micro, State.microStep, h]

theorem State.micro_of_hung (h : (s.seq r).hung = true) : s.micro r i P = s := by
  simp [State.micro, State.microStep, h]

theorem State.micro_of_waits (hs : (s.seq r).started = false) (ha : commandAdmission i s r = .waits) :
    s.micro r i P = s := by
  simp [State.micro, State.microStep, hs, ha]

/-- At the start of a bus operation a requester asks for the lock (R131). -/
theorem State.micro_of_asking {b : BusStep} (hop : s.AtOperation r i P b) (hlock : s.lock ≠ .held r) :
    s.micro r i P = s.acquire r := by
  simp [State.micro, State.microStep, State.busMicro, hop.notWaiting, hop.notHung, hop.started, hop.next, hlock]

theorem State.acquire_of_free (h : s.lock = .free) : s.acquire r = { s with lock := .held r } := by
  simp only [State.acquire, h]

theorem State.acquire_of_held {k : Nat} (h : s.lock = .held k) :
    s.acquire r = { s with wait := waitInsert s.wait r } := by
  simp only [State.acquire, h]

end

/-! ## The wedged bus (R63, D29) -/

/-- What lasts from state `s` on, in which requester `r` is inside a transaction of its command `i` that never
completes. -/
structure State.WedgedSince (s : State) (r : Nat) (i : Instr) (t : State) : Prop where
  cfg : t.cfg = s.cfg
  lock : t.lock = .held r
  cmd : (t.req r).cmd = some i
  hung : (t.seq r).hung = true
  wire : t.wire = s.wire
  pending : ∀ k j, (s.req k).cmd = some j → (s.seq k).started = true → (s.seq k).idx < (commandSteps s.cfg j).length →
    (t.req k).cmd = some j ∧ (t.seq k).started = true ∧ (t.seq k).idx < (commandSteps s.cfg j).length

section
variable {s u v : State} {r : Nat} {i : Instr}

/-- A change that leaves the lock, the wire and the commands in progress as they are. -/
theorem State.WedgedSince.of_ports (h : s.WedgedSince r i u) (hcfg : v.cfg = u.cfg) (hlock : v.lock = u.lock)
    (hwire : v.wire = u.wire)
    (hports : ∀ k, k = r ∨ (∃ j, (u.req k).cmd = some j ∧ (u.seq k).started = true ∧
      (u.seq k).idx < (commandSteps s.cfg j).length) → (v.req k).cmd = (u.req k).cmd ∧ v.seq k = u.seq k) :
    s.WedgedSince r i v := by
  obtain ⟨hcmd, hseq⟩ := hports r (.inl rfl)
  refine ⟨hcfg.trans h.cfg, hlock.trans h.lock, hcmd.trans h.cmd, by rw [hseq]; exact h.hung, hwire.trans h.wire, ?_⟩
  intro k j hj hs hidx
  have hold := h.pending k j hj hs hidx
  obtain ⟨hcmd, hseq⟩ := hports k (.inr ⟨j, hold⟩)
  rw [hcmd, hseq]
  exact hold

/-- A change of one port that has no bus operation of a command in progress ahead. -/
theorem State.WedgedSince.of_port (h : s.WedgedSince r i u) {k : Nat} (hcfg : v.cfg = u.cfg) (hlock : v.lock = u.lock)
    (hwire : v.wire = u.wire) (hk : k ≠ r) (hother : ∀ l, l ≠ k → v.req l = u.req l)
    (hfree : ∀ j, (u.req k).cmd = some j → (u.seq k).started = true →
      ¬ (u.seq k).idx < (commandSteps s.cfg j).length) : s.WedgedSince r i v := by
  refine h.of_ports hcfg hlock hwire fun l hl => ?_
  have hlk : l ≠ k := by
    rintro rfl
    rcases hl with rfl | ⟨j, hj, hs, hidx⟩
    · exact hk rfl
    · exact hfree j hj hs hidx
  exact ⟨by rw [hother l hlk], State.seq_of_req (hother l hlk)⟩

theorem State.MicroMove.wedged {k : Nat} {j : Instr} (hm : u.MicroMove k j u.cfg v) (h : s.WedgedSince r i u)
    (hc : (u.req k).cmd = some j) : s.WedgedSince r i v := by
  have hcfg := hm.cfg
  have hother : ∀ l, l ≠ k → v.req l = u.req l := fun l hl => hm.req_ne hl
  have hne : (u.seq k).hung = false → k ≠ r := by
    rintro hh rfl
    rw [h.hung] at hh; cases hh
  have held {P : Prop} (hh : (u.seq k).hung = false) (hl : u.lock = .held k) : P := by
    rw [h.lock] at hl; cases hl; exact absurd rfl (hne hh)
  cases hm with
  | still => exact h
  | start _ hhung hstarted =>
    exact h.of_port hcfg rfl rfl (hne hhung) hother fun _ _ hs => by rw [hstarted] at hs; cases hs
  | refuse _ hhung hstarted =>
    exact h.of_port hcfg rfl rfl (hne hhung) hother fun _ _ hs => by rw [hstarted] at hs; cases hs
  | complete _ hhung hlast =>
    refine h.of_port hcfg (by simp) (by simp) (hne hhung) hother fun j' hj' _ => ?_
    obtain rfl : j = j' := Option.some.inj (hc.symm.trans hj')
    rw [← h.cfg]
    exact not_lt.2 (List.getElem?_eq_none_iff.1 hlast)
  | takeLock _ hlock => rw [h.lock] at hlock; cases hlock
  | joinWait => exact h.of_ports rfl rfl rfl fun _ _ => ⟨rfl, rfl⟩
  | select hop hlock | payload hop hlock | fail hop hlock | hang hop hlock => exact held hop.notHung hlock

theorem State.WedgedSince.kept (s : State) (r : Nat) (i : Instr) : KeptByMoves (s.WedgedSince r i) where
  agenda _ _ h := h.of_ports rfl rfl rfl fun _ _ => ⟨rfl, rfl⟩
  turn _ _ _ h := h.of_ports rfl rfl rfl fun _ _ => ⟨rfl, rfl⟩
  load u k j h hk hc := by
    refine h.of_port rfl rfl rfl (k := k) ?_ (fun l hl => State.load_req_ne u k l j hl) ?_
    · rintro rfl; rw [h.cmd] at hc; cases hc
    · intro j' hj'; rw [hc] at hj'; cases hj'
  micro u v k j h hc hm := hm.wedged h hc
  illegal u k h hk hc := by
    refine h.of_port rfl rfl rfl (k := k) ?_ (fun l hl => u.answerIllegal_req_ne hl) ?_
    · rintro rfl; rw [h.cmd] at hc; cases hc
    · intro j' hj'; rw [hc] at hj'; cases hj'
  grant u k h hfree := by rw [h.lock] at hfree; cases hfree
  clock _ _ h := h.of_ports rfl rfl rfl fun _ _ => ⟨rfl, rfl⟩
  drift _ _ h := h.of_ports rfl rfl rfl fun _ _ => ⟨rfl, rfl⟩

end

end Sys2Proof.Machine
end

section
/-! The statements about the step, the lock, the reset state and the invariants (10_state.md, 20_memory.md,
40_bus_ops.md section 1, 60_exceptions.md). -/

namespace Sys2Proof.Machine

/-! ## The step -/

/-- Settles O7: a ready port takes the packet, and a packet that decodes is well formed. -/
theorem stepRunsDecodedCommand : Obligations.StepRunsDecodedCommand := by
  intro s r n packet rest i hagenda hready hd
  have hready' : ({ s with agenda := rest } : State).ready r = true := hready
  refine ⟨(Laws.decodeThenEncode packet i hd).1, ?_⟩
  simp only [step, hagenda, State.move, State.present, hready', hd, if_true]
  rfl

/-- Settles O8. -/
theorem stepContinuesCommandInFlight : Obligations.StepContinuesCommandInFlight := by
  intro s r n rest i hagenda hcmd
  have hcmd' : (({ s with agenda := rest } : State).req r).cmd = some i := hcmd
  simp only [step, hagenda, State.move, State.resume, hcmd']
  rfl

/-- Settles O9: every meaning is the turn of a requester, which is a next state, and so is every other move. -/
theorem everyStepAnswersNext : Obligations.EveryStepAnswersNext := by
  intro s
  unfold step
  split
  · exact ⟨s, rfl⟩
  · rename_i m rest _
    cases m with
    | present r packet n =>
      simp only [State.move, State.present]
      split
      · split
        · exact ⟨_, exec_eq _ _⟩
        · exact ⟨_, rfl⟩
      · exact ⟨_, rfl⟩
    | run r n =>
      simp only [State.move, State.resume]
      split
      · exact ⟨_, exec_eq _ _⟩
      · exact ⟨_, rfl⟩
    | grant r | clock readings | drift d => exact ⟨_, rfl⟩

/-- Settles O10: such a port is not ready. -/
theorem packetOnBusyPortIsNotTaken : Obligations.PacketOnBusyPortIsNotTaken := by
  intro s r n packet rest hagenda hbusy
  have hnot : ¬ ({ s with agenda := rest } : State).ready r = true := by
    rw [State.ready_iff]
    rintro ⟨hr, hc⟩
    rcases hbusy with hle | ⟨i, hi⟩
    · exact absurd hr (not_lt.2 hle)
    · have hi' : (({ s with agenda := rest } : State).req r).cmd = some i := hi
      rw [hi'] at hc; cases hc
  simp only [step, hagenda, State.move, State.present, if_neg hnot]

/-! ## The lock -/

/-- Settles O11. -/
theorem grantServesAWaiter : Obligations.GrantServesAWaiter := by
  intro s r rest hagenda
  have hstep : step s = .next (({ s with agenda := rest } : State).grant r) := by simp only [step, hagenda, State.move]
  constructor
  · intro hfree hmem
    refine ⟨s.wait.filter (· != r), ?_, fun k => by simp⟩
    rw [hstep, State.grant, if_pos ⟨hfree, hmem⟩]
  · intro hnot
    rw [hstep, State.grant, if_neg fun h => hnot.elim (fun hl => hl h.1) fun hw => hw h.2]

/-- Settles O12: the first micro-step asks for the lock, and one that joined the waiting set stays there. -/
theorem askingForTheLock : Obligations.AskingForTheLock := by
  intro s i r n hturn hcmd hstarted hhung hwait hidx
  have hop : s.AtOperation r i s.cfg _ := ⟨hwait, hhung, hstarted, List.getElem?_eq_getElem hidx⟩
  have hexec : exec i s = .next ((s.micro r i s.cfg).turnOn r i s.cfg n) := by
    rw [exec_of_cmd hturn hcmd, State.turnOn_of_cmd hcmd]
  constructor
  · rintro hfree rfl
    rw [hexec, State.micro_of_asking hop (by simp [hfree]), State.acquire_of_free hfree]
    rfl
  · intro k hk hheld
    refine ⟨waitInsert s.wait r, ?_, fun j => mem_waitInsert s.wait r j⟩
    rw [hexec, State.micro_of_asking hop (by simpa [hheld] using hk), State.acquire_of_held hheld,
      State.turnOn_of_still (State.micro_of_waiting ((mem_waitInsert s.wait r r).2 (.inl rfl)))]

/-- Settles O13. -/
theorem waiterPerformsNoStep : Obligations.WaiterPerformsNoStep := by
  intro s i hcmd hwait
  rw [exec_of_cmd rfl hcmd, State.turnOn_of_still (State.micro_of_waiting hwait)]

/-- Settles O14: no outcome of a micro-step of another requester, and no other move, touches what `WedgedSince` names. -/
theorem wedgedBusStaysWedged : Obligations.WedgedBusStaysWedged := by
  intro s t r n i hcmd hlock hhung hrun
  have hend : s.WedgedSince r i t := (State.WedgedSince.kept s r i).run n hrun
    ⟨rfl, hlock, hcmd, hhung, rfl, fun _ _ hj hs hidx => ⟨hj, hs, hidx⟩⟩
  exact ⟨hend.lock, hend.cmd, hend.wire, fun k j hj hs hidx => (hend.pending k j hj hs hidx).1⟩

/-! ## Reset and invariants -/

theorem State.resetWith_req (P : Params) (r : Nat) : ∃ tmp, (State.resetWith P).req r = Requester.idle tmp := by
  by_cases hr : r < P.nReq
  · exact ⟨Config.tmpAtReset r, by simp [State.req, State.resetWith, List.getD_eq_getElem?_getD, hr]⟩
  · exact ⟨0, by simp [State.req, State.resetWith, List.getD_eq_getElem?_getD, hr]⟩

theorem State.resetWith_length (P : Params) : (State.resetWith P).reqs.length = P.nReq := by simp [State.resetWith]

theorem State.resetWith_cmd (P : Params) (r : Nat) : ((State.resetWith P).req r).cmd = none := by
  obtain ⟨tmp, h⟩ := State.resetWith_req P r
  rw [h]; rfl

theorem State.resetWith_seq (P : Params) (r : Nat) :
    (State.resetWith P).seq r = Seq.cleared ((State.resetWith P).seq r).tmp := by
  obtain ⟨tmp, h⟩ := State.resetWith_req P r
  rw [State.seq_of_req h]; rfl

/-- Settles O16. -/
theorem resetState : Obligations.ResetState := by
  intro P
  refine ⟨rfl, rfl, rfl, State.resetWith_length P, fun r _ => ?_, fun b => ?_, fun k => ?_, fun p => ?_, rfl, rfl⟩
  · obtain ⟨tmp, h⟩ := State.resetWith_req P r
    exact ⟨State.resetWith_cmd P r, by rw [h]; rfl, State.resetWith_seq P r⟩
  · simp [State.resetWith]
  · cases hP : P.hexResetState <;> simp [State.resetWith, resetSlot, hP]
  · simp [State.capOf, State.resetWith]

/-- Settles O17: after reset no requester has a command. -/
theorem resetMeetsTheInvariants : Obligations.ResetMeetsTheInvariants := by
  intro P
  have hcmd := State.resetWith_cmd P
  have hseq := State.resetWith_seq P
  have idle {r : Nat} {i : Instr} {A : Prop} (h : ((State.resetWith P).req r).cmd = some i) : A := by
    rw [hcmd r] at h; cases h
  refine ⟨⟨State.resetWith_length P, Environment.powerOn_wf, List.Pairwise.nil, by simp [State.resetWith], ?_, ?_,
    fun r _ => hseq r, fun r _ => hseq r, fun r i p h => idle h, fun r k i j p _ h => idle h,
    fun r k i j _ h => idle h⟩, ⟨trivial, ?_⟩⟩
  · intro r hr
    simp [State.busy, State.resetWith] at hr
  · intro r hr
    rw [hseq r] at hr
    simp [Seq.cleared] at hr
  · intro r hr
    rw [hseq r] at hr
    simp [Seq.cleared] at hr

/-- Settles O18. -/
theorem everyStepKeepsTheInvariant : Obligations.EveryStepKeepsTheInvariant :=
  fun _ _ hinv he => State.Inv.kept.step he hinv

/-- Settles O19. -/
theorem everyStepKeepsTheWireDiscipline : Obligations.EveryStepKeepsTheWireDiscipline :=
  fun _ _ hinv hwire he => (State.WireInv.kept.step he ⟨hinv, hwire⟩).2

/-- Settles O20: the end of a command is all that writes tags, and it writes none to Free. -/
theorem capTagsNeverReturnToFree : Obligations.CapTagsNeverReturnToFree := by
  intro s t p he h
  refine (KeptByMoves.of_local (Q := fun u => u.capOf p ≠ .free) ?_ ?_).step he h
  · intro u v hu _ _ hcap
    rwa [State.capOf, hcap]
  · exact fun i held u hu => commandFinish_capOf_ne_free held u i hu

/-- Settles O21: the end of a command is all that writes buttons, and an update stores observations only. -/
theorem observedButtonsStayObserved : Obligations.ObservedButtonsStayObserved := by
  intro s t b he h
  refine (KeptByMoves.of_local (Q := fun u => u.btn[b] ≠ none) ?_ ?_).step he h
  · intro u v hu hbtn _ _
    rwa [hbtn]
  · exact fun i held u hu => commandFinish_observed held u i hu

/-- Settles O22: a conversion that completes is in progress or just admitted, so its pin is no detect pin. -/
theorem detectPinTagsAreTheHexUnits : Obligations.DetectPinTagsAreTheHexUnits := by
  intro s t i p hinv hp he hi
  have hload := fun hr hc => State.Inv.kept.load s s.turn.requester i hinv hr hc
  have hboth : t.Inv ∧ t.capOf p = s.capOf p := by
    refine exec_keeps_moves (Q := fun u => u.Inv ∧ u.capOf p = s.capOf p) he ⟨hinv, rfl⟩
      (fun hr hc => ⟨hload hr hc, rfl⟩) ?_
    rintro u v ⟨huinv, hcap⟩ hcfg hc hm
    rw [← hcfg] at hm hp
    refine ⟨hm.inv huinv hc, ?_⟩
    rcases hm.local_or_complete with ⟨-, -, hcap', -⟩ | ⟨rfl, hentry⟩
    · rw [State.capOf, hcap']; exact hcap
    · have hclear : u.Cleared s.turn.requester i := hentry.elim (huinv.cleared hc) State.cleared_of_admitted
      have hfinish : (commandFinish i (u.seq s.turn.requester).held u).1.capOf p = u.capOf p := by
        refine commandFinish_capOf _ u ?_ fun k e hk => absurd hk (hi k e)
        rintro q hq rfl
        have hpin : capPin i = some q := by rcases hq with rfl | rfl | rfl <;> rfl
        rw [hclear.detect q hpin] at hp; cases hp
      exact hfinish.trans hcap
  exact hboth.2

end Sys2Proof.Machine
end

section
/-! SUPPORT. Admission of a command just issued (R73, R112, R183), and the frame of a whole meaning: what a turn of one
requester leaves of everything that is not its own. -/

namespace Sys2Proof.Machine

/-! ## Admission -/

section
variable {s : State} {r : Nat} {p : Pin} {allowed : CapTag → Bool}

theorem State.admitCap_of_detect (h : isDetectPin s.cfg p = true) : s.admitCap r p allowed = .refused := by
  rw [State.admitCap, if_pos h]

theorem State.admitCap_of_other (hp : isDetectPin s.cfg p = false)
    (h : s.otherInProgress r (fun i => capPin i == some p) = true) : s.admitCap r p allowed = .waits := by
  rw [State.admitCap, if_neg (by simp [hp]), if_pos h]

theorem State.otherInProgress_of_none {test : Instr → Bool}
    (h : ∀ k i, k ≠ r → (s.req k).cmd = some i → (s.seq k).started = true → test i = false) :
    s.otherInProgress r test = false := by
  simp only [State.otherInProgress, List.any_eq_false, List.mem_range, Bool.and_eq_true, bne_iff_ne, not_and]
  rintro k - ⟨hk, hs⟩
  cases hc : (s.req k).cmd with
  | none => simp
  | some i => simpa using h k i hk hc hs

/-- With no other command on the pin in progress, a capability command does not wait (R183). -/
theorem State.admitCap_of_idle (h : s.capIdle r p) :
    s.admitCap r p allowed = if isDetectPin s.cfg p = true then .refused else admitIf (allowed (s.capOf p)) := by
  have hother : s.otherInProgress r (fun i => capPin i == some p) = false :=
    State.otherInProgress_of_none fun k i hk hc hs => by simpa using h k i hk hc hs
  simp [State.admitCap, hother]

theorem State.admitCap_not_waits (h : s.capIdle r p) : s.admitCap r p allowed ≠ .waits := by
  rw [State.admitCap_of_idle h, admitIf]
  repeat' split
  all_goals simp

theorem State.admitCap_of_refused_tag (h : s.capIdle r p) (ht : allowed (s.capOf p) = false) :
    s.admitCap r p allowed = .refused := by
  simp [State.admitCap_of_idle h, admitIf, ht]

theorem State.admitCap_of_tag (hp : isDetectPin s.cfg p = false) (h : s.capIdle r p)
    (ht : allowed (s.capOf p) = true) : s.admitCap r p allowed = .admitted := by
  simp [State.admitCap_of_idle h, admitIf, ht, hp]

theorem State.admitHex_of_idle (h : s.hexIdle r) : s.admitHex r = .admitted := by
  have hother : s.otherInProgress r isSetEnabled = false := State.otherInProgress_of_none h
  simp [State.admitHex, hother]

theorem State.admitHex_of_other (h : s.otherInProgress r isSetEnabled = true) : s.admitHex r = .waits := by
  rw [State.admitHex, if_pos h]

/-! ## A command that does not start -/

/-- A refused command answers `ILLEGAL` and does nothing else (R112). -/
theorem isRefused_of_refused {i : Instr} (h : s.mayIssue r 1) (ha : commandAdmission i s r = .refused) :
    s.isRefused r i := by
  have ⟨_, hr, _, hwait, hbudget⟩ := h
  obtain ⟨n, hn⟩ : ∃ n, s.turn.budget = n + 1 := ⟨s.turn.budget - 1, by omega⟩
  have hcmd : ((s.load r i).req r).cmd = some i := by rw [State.load_req s r i hr]
  have hmicro : (s.load r i).micro r i s.cfg = (s.load r i).respond r [0xFE] := by
    simp [State.micro, State.microStep, State.load_seq i hr, Seq.cleared, hwait, commandAdmission_load, ha,
      statusIllegal]
  have hrespond : (s.load r i).respond r [0xFE] = s.respond r [0xFE] := State.setReq_respond s r _ _ hr rfl
  rw [State.isRefused, exec_of_mayIssue i h, hn, State.turnOn_of_cmd hcmd, hmicro, hrespond, State.turnOn_respond hr]

/-- A command that has to wait stays loaded, however long its turn is (R73, R183). -/
theorem exec_of_waits {i : Instr} {n : Nat} (h : s.mayIssue r n) (ha : commandAdmission i s r = .waits) :
    exec i s = .next (s.load r i) := by
  have ⟨_, hr, _⟩ := h
  have hstarted : ((s.load r i).seq r).started = false := by rw [State.load_seq i hr]; rfl
  rw [exec_of_mayIssue i h, State.turnOn_of_still (State.micro_of_waits hstarted ((commandAdmission_load i i s r).trans ha))]

end

/-! ## The frame of a meaning -/

section
variable {s t : State} {i : Instr}

/-- What a meaning leaves of the machine outside the requester's own port, the bus and the local state. -/
theorem exec_frame (he : exec i s = .next t) :
    (∀ k, k ≠ s.turn.requester → t.req k = s.req k) ∧ t.reqs.length = s.reqs.length ∧ t.cfg = s.cfg ∧
    t.turn = s.turn ∧ t.agenda = s.agenda := by
  refine exec_keeps_moves (Q := fun u => (∀ k, k ≠ s.turn.requester → u.req k = s.req k) ∧
    u.reqs.length = s.reqs.length ∧ u.cfg = s.cfg ∧ u.turn = s.turn ∧ u.agenda = s.agenda) he
    ⟨fun _ _ => rfl, rfl, rfl, rfl, rfl⟩ ?_ ?_
  · exact fun _ _ => ⟨fun k hk => State.load_req_ne s _ k i hk, by simp, rfl, rfl, rfl⟩
  · rintro u v ⟨hother, hlen, hcfg, hturn, hagenda⟩ - - hm
    exact ⟨fun k hk => (hm.req_ne hk).trans (hother k hk), hm.length.trans hlen, hm.cfg.trans hcfg,
      hm.turn.trans hturn, hm.agenda.trans hagenda⟩

/-- A command without bus operations leaves the bus alone (R73). -/
theorem exec_frame_of_no_steps (hnil : commandSteps s.cfg i = []) (he : exec i s = .next t) :
    t.wire = s.wire ∧ t.env = s.env ∧ t.lock = s.lock ∧ t.wait = s.wait := by
  refine exec_keeps_moves (Q := fun u => u.wire = s.wire ∧ u.env = s.env ∧ u.lock = s.lock ∧ u.wait = s.wait) he
    ⟨rfl, rfl, rfl, rfl⟩ (fun _ _ => ⟨rfl, rfl, rfl, rfl⟩) fun u v hu _ _ hm => ?_
  have none_next {b : BusStep} {A : Prop} (hop : u.AtOperation s.turn.requester i s.cfg b) : A := by
    have := hop.next
    rw [hnil] at this; cases this
  cases hm with
  | still | start | refuse => exact hu
  | complete => simpa using hu
  | takeLock hop | joinWait hop | select hop | payload hop | fail hop | hang hop => exact none_next hop

end

end Sys2Proof.Machine
end

section
/-! The statements about the local state: frames, refusals and waits, the two event units, and the laws of the operands
(10_state.md, 42_pin_identity_capability.md, 44_buttons.md, 45_hexpansion.md, 46_common_laws.md). -/

namespace Sys2Proof.Machine

/-- Settles O23: the ends of commands are all that writes local state. -/
theorem commandsWriteOnlyTheirLocalState : Obligations.CommandsWriteOnlyTheirLocalState := by
  intro s t i he
  obtain ⟨hother, hlen, hcfg, hturn, hagenda⟩ := exec_frame he
  refine ⟨hother, hlen, hcfg, hturn, hagenda, fun hi => ?_, fun hi hi' => ?_, fun hi hi' => ?_, fun p hconv hslot => ?_,
    fun k k' e hi hk => ?_, fun hi => ?_⟩
  · exact exec_keeps_local (Q := fun u => u.btn = s.btn) he (fun hu h _ _ _ => h.trans hu)
      (fun held u hu _ => (commandFinish_btn held u hi).trans hu) rfl
  · exact exec_keeps_local (Q := fun u => u.hex = s.hex) he (fun hu _ h _ _ => h.trans hu)
      (fun held u hu _ => (commandFinish_hex held u hi hi').trans hu) rfl
  · exact exec_keeps_local (Q := fun u => u.clock = s.clock) he (fun hu _ _ _ h => h.trans hu)
      (fun held u hu _ => (commandFinish_clock held u hi hi').trans hu) rfl
  · refine exec_keeps_local (Q := fun u => u.capOf p = s.capOf p) he ?_ ?_ rfl
    · intro u v hu _ _ hcap _
      rwa [State.capOf, hcap]
    · intro held u hu hcfg
      exact (commandFinish_capOf held u hconv fun k e hi => hcfg ▸ hslot k e hi).trans hu
  · refine exec_keeps_local (Q := fun u => u.hex[k'] = s.hex[k']) he ?_ ?_ rfl
    · intro u v hu _ hhex _ _
      rwa [hhex]
    · intro held u hu _
      refine (commandFinish_slot held u ?_ ?_).trans hu
      · rintro e' rfl
        cases hi; exact hk rfl
      · rintro S rfl
        cases hi
  · refine exec_frame_of_no_steps ?_ he
    rcases hi with rfl | ⟨p, rfl⟩ | ⟨p, S, rfl⟩ | ⟨S, rfl⟩ | ⟨S, rfl⟩ <;> rfl

/-! ## Refusals and waits -/

theorem fracAllowed_iff (num den : BitVec 16) : fracAllowed num den = true ↔ 1 ≤ den.toNat ∧ num.toNat ≤ den.toNat := by
  simp only [fracAllowed, Bool.and_eq_true, bne_iff_ne, decide_eq_true_eq]
  omega

theorem fracAllowed_eq_false {num den : BitVec 16} (h : den.toNat = 0 ∨ den.toNat < num.toNat) :
    fracAllowed num den = false := by
  rw [← Bool.not_eq_true, fracAllowed_iff]
  omega

/-- Settles O49: the detect pin first, then the tag, and the fraction after both. -/
theorem capabilityRefusals : Obligations.CapabilityRefusals := by
  intro s r p h
  refine ⟨fun i hp hdetect => ?_, fun hidle => ⟨fun num den hfrac => ?_, fun ht => ?_, fun ht => ?_, fun ht => ?_,
    fun ht l => ?_, fun ht => ?_, fun ht => ⟨fun d => ?_, fun v => ?_, fun num den => ?_⟩⟩⟩ <;>
    refine isRefused_of_refused h ?_
  · obtain ⟨allowed, b, e⟩ := commandAdmission_capPin (s := s) (r := r) hp
    rw [e, State.admitCap_of_detect hdetect, Admission.andThen_refused]
  · rw [commandAdmission, fracAllowed_eq_false hfrac]
    exact Admission.andThen_false (State.admitCap_not_waits hidle)
  · rw [commandAdmission]; exact State.admitCap_of_refused_tag hidle (by simp [ht])
  · rw [commandAdmission]; exact State.admitCap_of_refused_tag hidle (by simp [ht])
  · rw [commandAdmission]; exact State.admitCap_of_refused_tag hidle (by simp [ht])
  · rw [commandAdmission]; exact State.admitCap_of_refused_tag hidle (by simpa using ht)
  · rw [commandAdmission]; exact State.admitCap_of_refused_tag hidle (by simpa using ht)
  · rw [commandAdmission]; exact State.admitCap_of_refused_tag hidle (by simpa using ht)
  · rw [commandAdmission]; exact State.admitCap_of_refused_tag hidle (by simpa using ht)
  · rw [commandAdmission, State.admitCap_of_refused_tag hidle (by simpa using ht), Admission.andThen_refused]

/-- Settles O50: the other command is in progress, so admission says to wait. -/
theorem interlockedCommandsWait : Obligations.InterlockedCommandsWait := by
  intro s r n k i j h hk hj hs hi
  refine exec_of_waits h ?_
  rcases hi with ⟨p, hip, hjp, hdetect⟩ | ⟨hset, hhex⟩
  · obtain ⟨allowed, b, e⟩ := commandAdmission_capPin (s := s) (r := r) hip
    rw [e, State.admitCap_of_other hdetect (State.otherInProgress_true hk hj hs (by simpa using hjp)),
      Admission.andThen_waits]
  · have hwaits := State.admitHex_of_other (State.otherInProgress_true hk hj hs hset)
    rcases hhex with ⟨S, rfl⟩ | ⟨slot, e, rfl⟩ <;> exact hwaits

/-! ## Buttons -/

section
variable {P : Params} {S : Snapshot} {b : Fin 6} {stored : Option Observation}

theorem buttonReport_of_changed (h : stored = none ∨ ∃ o, stored = some o ∧ o.level ≠ buttonLevel P S b) :
    buttonReport P S b stored =
      some fun ts => (⟨b, stored, ⟨buttonLevel P S b, ts⟩⟩, some ⟨buttonLevel P S b, ts⟩) := by
  refine if_pos ?_
  rcases h with rfl | ⟨o, rfl, ho⟩
  · rfl
  · simpa [buttonChanged] using ho

theorem buttonReport_of_same {o : Observation} (ho : stored = some o) (hl : o.level = buttonLevel P S b) :
    buttonReport P S b stored = none := if_neg (by simp [ho, buttonChanged, hl])

theorem commandFinish_btnUpdate (S : Snapshot) (held : List Byte) (s : State) :
    commandFinish (.btnUpdate S) held s =
      ({ s with btn := (scanButtons s.cfg S s.btn s.clock).btn, clock := (scanButtons s.cfg S s.btn s.clock).sampler.clock },
        buttonPayload (scanButtons s.cfg S s.btn s.clock).events) := rfl

theorem commandFinish_hexUpdate (S : Snapshot) (held : List Byte) (s : State) :
    commandFinish (.hexUpdate S) held s =
      ({ s with hex := (scanSlots s.cfg S s.hex s.clock).hex, clock := (scanSlots s.cfg S s.hex s.clock).sampler.clock },
        slotPayload (scanSlots s.cfg S s.hex s.clock).events) := rfl

end

/-- The record of a button event, over the fields the statement names (R107). -/
theorem ButtonEvent.record_eq (e : ButtonEvent) : e.record =
    BitVec.ofNat 8 (e.button.val + (if e.previous.isSome then 8 else 0) +
        (if e.previous.map Observation.level = some .pressed then 16 else 0) +
        (if e.now.level = .pressed then 32 else 0)) ::
      (littleEndian ((e.previous.map Observation.ts).getD 0) ++ littleEndian e.now.ts) := by
  obtain ⟨button, previous, now⟩ := e
  cases previous <;> simp [ButtonEvent.record, timestampBytes_eq_littleEndian, levelWeight_eq]

/-- Settles O54: the one atomic step is a scan of the six buttons, whose outcome is said once for both units. -/
theorem buttonUpdate : Obligations.ButtonUpdate := by
  refine ⟨fun s r S h => ?_, ButtonEvent.record_eq⟩
  have hout := scanButtons_outcome s.cfg S s.btn s.clock
  have hexec := exec_of_no_steps (i := .btnUpdate S) h rfl rfl
  refine ⟨(scanButtons s.cfg S s.btn s.clock).events, (scanButtons s.cfg S s.btn s.clock).btn, ?_, hout.ascending,
    hout.stamps, fun b => ?_⟩
  · rw [hexec, commandFinish_btnUpdate, hout.clock, buttonPayload]
  · dsimp only
    rw [← buttonLevel_eq_levelAt]
    constructor
    · intro hchanged
      exact hout.reported b _ (buttonReport_of_changed hchanged)
    · rintro ⟨o, ho, hl⟩
      exact (hout.silent b (buttonReport_of_same ho hl)).symm

/-- Bit 3 of byte 0 of a record: the fields below it are the button alone, those above it are multiples of 16
(R107). -/
theorem ButtonEvent.record_bit3 (e : ButtonEvent) : (e.record.headD 0).getLsbD 3 = e.previous.isSome := by
  have bits : ∀ (b : Fin 6) (v x y : Bool),
      (BitVec.ofNat 8 (b.val + (if v = true then 8 else 0) + (if x = true then 16 else 0) +
        (if y = true then 32 else 0))).getLsbD 3 = v := by decide
  rw [ButtonEvent.record_eq, List.headD_cons]
  simpa using bits e.button e.previous.isSome (decide (e.previous.map Observation.level = some .pressed))
    (decide (e.now.level = .pressed))

/-- Settles O56. -/
theorem durationAccessor : Obligations.DurationAccessor := by
  refine fun e => ⟨by simp [ButtonEvent.released], ?_, by simp [ButtonEvent.duration], e.record_bit3, ?_⟩
  · rw [ButtonEvent.released, ButtonEvent.pressed]
    cases e.now.level <;> rfl
  · rintro o ho
    rw [ButtonEvent.duration, ho]; rfl

/-- Settles O57: the timestamps of an update are samples of the clock, in the order of its events. -/
theorem timestampsNeverDecrease : Obligations.TimestampsNeverDecrease := by
  intro P S btn hex c ok rising buttons slots hok
  have between {stamps : List Timestamp} {after : Clock} (h : c.Between after stamps) : rising stamps after :=
    ⟨h.rising, h.last_le, h.sorted, h.bounds⟩
  have hbuttons := scanButtons_outcome P S btn c
  have hslots := scanSlots_outcome P S hex c
  constructor
  · have h := Clock.samples_between P.tsSampling buttons.events.length hok
    rw [← hbuttons.stamps, ← hbuttons.clock] at h
    exact between h
  · have h := Clock.samples_between P.tsSampling slots.events.length hok
    rw [← hslots.stamps, ← hslots.clock] at h
    exact between h

/-! ## Slots -/

theorem slotLevel_of_high {P : Params} {S : Snapshot} {k : Fin 6} (h : levelAt S P.hexDetectPin[k] = true) :
    (slotLevel P S k == .occupied) = false := by rw [slotLevel_eq_levelAt, if_pos h]; rfl

theorem slotLevel_of_low {P : Params} {S : Snapshot} {k : Fin 6} (h : levelAt S P.hexDetectPin[k] = false) :
    (slotLevel P S k == .occupied) = true := by rw [slotLevel_eq_levelAt, if_neg (by rw [h]; exact Bool.false_ne_true)]; rfl

section
variable {P : Params} {S : Snapshot} {k : Fin 6} {hex : Vector SlotState 6} (c : Clock)

theorem scanSlots_reports {x : SlotReport} {y : SlotState}
    (h : slotTransition hex[k] (slotLevel P S k == .occupied) = some (x, y)) :
    (∃ ts, { slot := k, timestamp := ts, state := x } ∈ (scanSlots P S hex c).events) ∧
    (scanSlots P S hex c).hex[k] = y := by
  have hreport : slotReport P S k hex[k] = some fun ts => (⟨k, ts, x⟩, y) := by rw [slotReport, h]; rfl
  obtain ⟨ts, hmem, hcell⟩ := (scanSlots_outcome P S hex c).reported k _ hreport
  exact ⟨⟨ts, hmem⟩, hcell⟩

theorem scanSlots_silent (h : slotTransition hex[k] (slotLevel P S k == .occupied) = none) :
    (∀ e ∈ (scanSlots P S hex c).events, e.slot ≠ k) ∧ (scanSlots P S hex c).hex[k] = hex[k] := by
  have hreport : slotReport P S k hex[k] = none := by rw [slotReport, h]; rfl
  exact ((scanSlots_outcome P S hex c).silent k hreport).symm

end

/-- Settles O58: the one atomic step is a scan of the six slots; which of them report is the table of R237. -/
theorem slotUpdate : Obligations.SlotUpdate := by
  refine ⟨fun s r S h hidle => ?_, fun e => ?_⟩
  · have hout := scanSlots_outcome s.cfg S s.hex s.clock
    have hexec := exec_of_no_steps (i := .hexUpdate S) h (State.admitHex_of_idle hidle) rfl
    refine ⟨(scanSlots s.cfg S s.hex s.clock).events, (scanSlots s.cfg S s.hex s.clock).hex, ?_, hout.ascending,
      hout.stamps, fun k => ⟨fun hk => ?_, fun hk => ?_, fun hk hhigh => ?_, fun hk hlow => ?_, fun hk hhigh => ?_,
        fun hk hlow => ?_⟩⟩
    · rw [hexec, commandFinish_hexUpdate, hout.clock, slotPayload]
    · exact scanSlots_reports s.clock (by rw [hk]; rfl)
    · exact scanSlots_silent s.clock (by rw [hk]; rfl)
    · rcases hk with hk | hk <;> exact scanSlots_reports s.clock (by rw [hk, slotLevel_of_high hhigh]; rfl)
    · rcases hk with hk | hk <;> exact scanSlots_reports s.clock (by rw [hk, slotLevel_of_low hlow]; rfl)
    · exact scanSlots_silent s.clock (by rw [hk, slotLevel_of_high hhigh]; rfl)
    · exact scanSlots_silent s.clock (by rw [hk, slotLevel_of_low hlow]; rfl)
  · rw [SlotEvent.record, timestampBytes_eq_littleEndian]
    cases e.state <;> rfl

/-- Settles O60: a disabled slot that has been reported is silent in every update, and no other end of a command writes
it. -/
theorem disabledIsReportedOnce : Obligations.DisabledIsReportedOnce := by
  intro s t i k hk he hi
  have silent (P : Params) (S : Snapshot) : slotReport P S k (.disabled true) = none := rfl
  constructor
  · refine exec_keeps_local (Q := fun u => u.hex[k] = .disabled true) he ?_ ?_ hk
    · intro u v hu _ hhex _ _
      rwa [hhex]
    · intro held u hu _
      exact (commandFinish_slot held u hi fun S _ => by rw [hu]; exact silent u.cfg S).trans hu
  · intro S _
    exact ((scanSlots_outcome s.cfg S s.hex s.clock).silent k (by rw [hk]; exact silent s.cfg S)).2

/-! ## Operands -/

theorem chipAddr_eq (c : Fin 3) : chipAddr c = [0x58, 0x59, 0x5A].getD c.val 0 := by
  revert c; decide

theorem chipAddr_byte (c : Fin 3) : BitVec.ofNat 8 (chipAddr c).toNat = ([0x58, 0x59, 0x5A].getD c.val 0 : Byte) := by
  revert c; decide

/-- Settles O46: a command without bus operations is one atomic step, and each register is its base or the next one. -/
theorem pinIdentity : Obligations.PinIdentity := by
  intro s r p h
  rw [exec_of_no_steps (i := .pidEncode p) h rfl rfl]
  simp only [commandFinish, finishWith, identityBytes, chipAddr_byte, portReg_eq, dimReg_eq_dimTable, pinMask_eq]
  rfl

theorem pinMask_getLsbD (p : Pin) (k : Nat) : (pinMask p).getLsbD k = decide (k = p.bit.val) := by
  have hbit := p.bit.isLt
  rw [pinMask_eq, BitVec.getLsbD_ofNat, Nat.testBit_two_pow]
  by_cases h : p.bit.val = k
  · subst h; simp [hbit]
  · simp [h, Ne.symm h]

/-- The modify step as bits: the pin's bit is as asked, every other as before (R152). -/
theorem modifyBit_getLsbD (p : Pin) (x : Bool) (v : Byte) (k : Nat) :
    (modifyBit x (pinMask p) v).getLsbD k = if k = p.bit.val then x else v.getLsbD k := by
  have hbit := p.bit.isLt
  unfold modifyBit
  cases x with
  | true =>
    rw [if_pos rfl, BitVec.getLsbD_or, pinMask_getLsbD]
    by_cases h : k = p.bit.val <;> simp [h]
  | false =>
    rw [if_neg (by simp), BitVec.getLsbD_and, BitVec.getLsbD_not, pinMask_getLsbD]
    by_cases h : k = p.bit.val
    · simp [h]
    · simp only [h, decide_false, Bool.not_false, Bool.and_true, if_false]
      by_cases hk : k < 8
      · simp [hk]
      · simp [hk, BitVec.getLsbD_of_ge v k (by omega)]

/-- Settles O43: each law holds bit by bit. -/
theorem bitLaws : Obligations.BitLaws := by
  intro p q x y v
  refine ⟨by rw [modifyBit_getLsbD, if_pos rfl], fun k hk => by rw [modifyBit_getLsbD, if_neg hk], ?_, fun hne => ?_⟩
  · refine BitVec.eq_of_getLsbD_eq fun k _ => ?_
    simp only [modifyBit_getLsbD]
    split <;> rfl
  · refine BitVec.eq_of_getLsbD_eq fun k _ => ?_
    have hbits : p.bit.val ≠ q.bit.val := fun e => hne (Fin.ext e)
    simp only [modifyBit_getLsbD]
    split
    · rename_i hk
      rw [if_neg (hk ▸ hbits)]
    · rfl

/-! ## Duty -/

theorem dutyQuotient_le {n d : Nat} (hd : 1 ≤ d) (hn : n ≤ d) : dutyQuotient n d ≤ 255 := by
  rw [dutyQuotient]
  calc n * 255 / d ≤ d * 255 / d := Nat.div_le_div_right (Nat.mul_le_mul_right 255 hn)
    _ = 255 := Nat.mul_div_cancel_left 255 hd

/-- A fraction between 0 and 1 makes a duty that fits its byte (R159, R247). -/
theorem fracDuty_toNat {n d : BitVec 16} (hd : 1 ≤ d.toNat) (hn : n.toNat ≤ d.toNat) :
    (fracDuty n d).toNat = n.toNat * 255 / d.toNat := by
  have := dutyQuotient_le hd hn
  rw [fracDuty, BitVec.toNat_ofNat, Nat.mod_eq_of_lt (by omega), dutyQuotient]

/-- Settles O42: each law is one of the division of numbers. -/
theorem dutyLaws : Obligations.DutyLaws := by
  intro n d hd hn
  have hvalue := fracDuty_toNat hd hn
  have toNat_eq {v : Byte} {m : Nat} (hm : m < 256) : v = BitVec.ofNat 8 m ↔ v.toNat = m := by
    rw [← BitVec.toNat_inj, BitVec.toNat_ofNat, Nat.mod_eq_of_lt hm]
  refine ⟨hvalue, ?_, ?_, ?_, ?_, fun m hm => ?_, fun k hk hkd => ?_, fun pct hpct => ?_⟩
  · simp [fracDuty, dutyQuotient]
  · rw [fracDuty, dutyQuotient, Nat.mul_div_cancel_left 255 hd]; rfl
  · rw [show (255 : Byte) = BitVec.ofNat 8 255 from rfl, toNat_eq (by omega), hvalue, ← BitVec.toNat_inj,
      Nat.div_eq_iff (by omega)]
    omega
  · rw [show (0 : Byte) = BitVec.ofNat 8 0 from rfl, toNat_eq (by omega), hvalue, Nat.div_eq_zero_iff]
    omega
  · rw [hvalue, fracDuty_toNat hd (hm.trans hn)]
    exact Nat.div_le_div_right (Nat.mul_le_mul_right 255 hm)
  · have hkn : k * n.toNat ≤ k * d.toNat := Nat.mul_le_mul_left k hn
    simp only [fracDuty, dutyQuotient, BitVec.toNat_ofNat]
    rw [Nat.mod_eq_of_lt (by omega), Nat.mod_eq_of_lt (by omega), Nat.mul_assoc, Nat.mul_div_mul_left _ _ hk]
  · rw [pctDuty, fracDuty, BitVec.toNat_ofNat, Nat.mod_eq_of_lt (by omega)]; rfl

end Sys2Proof.Machine
end

section
/-! SUPPORT. What one answer of the environment leaves of what is recorded of the chips (10_state.md section 11,
20_memory.md sections 1 and 4), and which bus operations a command has. -/

namespace Sys2Proof.Machine

/-! ## Addresses -/

theorem chipOfAddr_eq_some {a : Addr} {c : Fin 3} : chipOfAddr a = some c ↔ a = chipAddr c := by
  constructor
  · intro h
    unfold chipOfAddr at h
    repeat' split at h
    all_goals
      cases h
      try assumption
  · rintro rfl
    revert c; decide

theorem chipAddr_ne_muxAddr (c : Fin 3) : chipAddr c ≠ muxAddr := by
  revert c; decide

/-! ## Operation lists that leave a register alone -/

/-- An operation list leaves the registers of offset `g` as they were: a write to another offset that stores, a
register read, a snapshot read, or reads alone (log 5). -/
def leavesOffset (g : Byte) (ops : List BusOp) : Prop :=
  (∃ g' v, ops = [.write [g', v]] ∧ isStorageReg g' = true ∧ g' ≠ g) ∨ (∃ g', ops = [.write [g'], .read 1]) ∨
  ops = [.write [0x00, 0x01], .read 2] ∨ ∀ op ∈ ops, ∃ len, op = .read len

theorem sendsBytes_of_reads {ops : List BusOp} (h : ∀ op ∈ ops, ∃ len, op = .read len) : sendsBytes ops = false := by
  rw [sendsBytes, List.any_eq_false]
  intro op hop
  obtain ⟨len, rfl⟩ := h op hop
  simp

section
variable (e : Environment) (expBus : BusHandle) (a : Addr) (c : Fin 3) {ops : List BusOp} {g : Byte}

theorem Environment.reg_setReg_ne {c' : Fin 3} {g' v : Byte} (h : g' ≠ g) : (e.setReg c' g' v).reg c g = e.reg c g := by
  rw [Environment.reg_setReg, if_neg fun hc => h hc.2.1.symm]

theorem Environment.recordRegs_reg (c' : Fin 3) (answer : Reply) (h : leavesOffset g ops) :
    (e.recordRegs expBus c' ops answer).reg c g = e.reg c g := by
  rcases h with ⟨g', v, rfl, hs, hne⟩ | ⟨g', rfl⟩ | rfl | hreads
  · simp only [Environment.recordRegs, hs, if_true]
    split
    · exact e.reg_setReg_ne c hne
    · exact e.reg_setReg_ne c hne
  · rfl
  · rfl
  · rcases e.recordRegs_cases expBus c' ops answer with hr | ⟨g', v, rfl, -, -⟩ | ⟨g', v, rfl, -, -⟩ | -
    · rw [hr]
    · obtain ⟨len, hlen⟩ := hreads _ List.mem_cons_self
      cases hlen
    · obtain ⟨len, hlen⟩ := hreads _ List.mem_cons_self
      cases hlen
    · unfold Environment.recordRegs
      split
      · obtain ⟨len, hlen⟩ := hreads _ List.mem_cons_self
        cases hlen
      · rfl
      · obtain ⟨len, hlen⟩ := hreads _ List.mem_cons_self
        cases hlen
      · rw [if_neg (by simp [sendsBytes_of_reads hreads])]

theorem Environment.referenceWrite_keeps (g' v : Byte) :
    (e.referenceWrite c g' v).pins = e.pins ∧ (e.referenceWrite c g' v).absent = e.absent ∧
    (e.referenceWrite c g' v).law = e.law ∧ (e.referenceWrite c g' v).pointer = e.pointer := by
  unfold Environment.referenceWrite
  split <;> simp

theorem Environment.reg_referenceWrite_ne {c' : Fin 3} {g' v : Byte} (h : g' ≠ g) :
    (e.referenceWrite c' g' v).reg c g = e.reg c g := by
  unfold Environment.referenceWrite
  split
  · rfl
  · exact e.reg_setReg_ne c h

/-- Everything an answer of `E_ref` can do to it: nothing, a new selection, or a register write of the chip
addressed. -/
theorem Environment.referenceAnswer_cases (ops : List BusOp) :
    (e.referenceAnswer expBus a ops).2 = e ∨
    (∃ b, (e.referenceAnswer expBus a ops).2 = { e with muxsel := b }) ∨
    ∃ c g v, a = chipAddr c ∧ ops = [.write [g, v]] ∧ (e.referenceAnswer expBus a ops).2 = e.referenceWrite c g v := by
  unfold Environment.referenceAnswer
  split
  · split
    · exact .inr (.inl ⟨_, rfl⟩)
    · exact .inl rfl
  · split
    · exact .inl rfl
    · rename_i c hc
      split
      · split
        · exact .inr (.inr ⟨c, _, _, chipOfAddr_eq_some.1 hc, rfl, rfl⟩)
        · split <;> exact .inl rfl
        · split <;> exact .inl rfl
        · exact .inl rfl
      · exact .inl rfl

/-- Everything an answer under no law can do to what is recorded but for the selection: nothing, or what was told the
chip addressed, whose pointer it moves. -/
theorem Environment.generalAnswer_cases (ops : List BusOp) :
    ((e.generalAnswer expBus a ops).2.regs = e.regs ∧ (e.generalAnswer expBus a ops).2.fill = e.fill ∧
      (e.generalAnswer expBus a ops).2.pins = e.pins ∧ (e.generalAnswer expBus a ops).2.absent = e.absent ∧
      (e.generalAnswer expBus a ops).2.law = e.law ∧ (e.generalAnswer expBus a ops).2.pointer = e.pointer) ∨
    ∃ c answer script draws, a = chipAddr c ∧ (e.generalAnswer expBus a ops).2 =
      { (e.recordRegs expBus c ops answer).movePointer c with script := script, draws := draws } := by
  simp only [Environment.generalAnswer, Environment.record]
  split
  · exact .inl (e.recordMux_keeps ops _)
  · split
    · exact .inl ⟨rfl, rfl, rfl, rfl, rfl, rfl⟩
    · rename_i c hc
      rw [Environment.recordChip]
      split
      · exact .inl ⟨rfl, rfl, rfl, rfl, rfl, rfl⟩
      · exact .inr ⟨c, _, _, _, chipOfAddr_eq_some.1 hc, rfl⟩

theorem Environment.recordRegs_keeps (answer : Reply) :
    (e.recordRegs expBus c ops answer).pins = e.pins ∧ (e.recordRegs expBus c ops answer).absent = e.absent ∧
    (e.recordRegs expBus c ops answer).law = e.law ∧ (e.recordRegs expBus c ops answer).pointer = e.pointer := by
  rcases e.recordRegs_cases expBus c ops answer with hr | ⟨g, v, -, -, hr⟩ | ⟨g, v, -, -, hr⟩ | hr <;> rw [hr]
  · exact ⟨rfl, rfl, rfl, rfl⟩
  · simp
  · simp [Environment.forgetReg]
  · exact ⟨rfl, rfl, rfl, rfl⟩

/-! ## One answer of either environment -/

/-- No answer changes the pin levels, the absences or the law. -/
theorem Environment.answer_keeps (ops : List BusOp) :
    (e.answer expBus a ops).2.pins = e.pins ∧ (e.answer expBus a ops).2.absent = e.absent ∧
    (e.answer expBus a ops).2.law = e.law := by
  unfold Environment.answer
  split
  · rcases e.generalAnswer_cases expBus a ops with ⟨-, -, hp, ha, hl, -⟩ | ⟨c, answer, script, draws, -, h⟩
    · exact ⟨hp, ha, hl⟩
    · obtain ⟨hp, ha, hl, -⟩ := e.recordRegs_keeps expBus c (ops := ops) answer
      rw [h]; exact ⟨hp, ha, hl⟩
  · rcases e.referenceAnswer_cases expBus a ops with h | ⟨b, h⟩ | ⟨c, g, v, -, -, h⟩ <;> rw [h]
    · exact ⟨rfl, rfl, rfl⟩
    · exact ⟨rfl, rfl, rfl⟩
    · obtain ⟨hp, ha, hl, -⟩ := e.referenceWrite_keeps c g v
      exact ⟨hp, ha, hl⟩

/-- An answer leaves a register of a chip that is not addressed, or whose offset the operations leave alone. -/
theorem Environment.answer_reg (h : a = chipAddr c → leavesOffset g ops) :
    (e.answer expBus a ops).2.reg c g = e.reg c g := by
  unfold Environment.answer
  split
  · rcases e.generalAnswer_cases expBus a ops with ⟨hr, hf, hp, -, -, -⟩ | ⟨c', answer, script, draws, hc, heq⟩
    · exact Environment.reg_congr hp hr hf c g
    · rw [heq]
      have hreg : (e.recordRegs expBus c' ops answer).reg c g = e.reg c g := by
        by_cases hcc : c' = c
        · exact e.recordRegs_reg expBus c c' answer (h (hcc ▸ hc))
        · rcases e.recordRegs_cases expBus c' ops answer with hr | ⟨g', v, -, -, hr⟩ | ⟨g', v, -, -, hr⟩ | hr <;> rw [hr]
          · rw [Environment.reg_setReg, if_neg fun h => hcc h.1.symm]
          · rw [Environment.reg_forgetReg, if_neg fun h => hcc h.1.symm]
          · rw [Environment.reg_forgetChip, if_neg fun h => hcc h.1.symm]
      exact hreg
  · rcases e.referenceAnswer_cases expBus a ops with heq | ⟨b, heq⟩ | ⟨c', g', v, hc, rfl, heq⟩ <;> rw [heq]
    · rfl
    · by_cases hcc : c' = c
      · rcases h (hcc ▸ hc) with ⟨g'', v', hops, -, hne⟩ | ⟨g'', hops⟩ | hops | hreads
        · cases hops; exact e.reg_referenceWrite_ne c hne
        · cases hops
        · cases hops
        · obtain ⟨len, hlen⟩ := hreads _ List.mem_cons_self
          cases hlen
      · unfold Environment.referenceWrite
        split
        · rfl
        · rw [Environment.reg_setReg, if_neg fun h => hcc h.1.symm]

/-- An answer leaves the register pointer of a chip that is not addressed. -/
theorem Environment.answer_pointer (h : a ≠ chipAddr c) : (e.answer expBus a ops).2.pointer[c] = e.pointer[c] := by
  unfold Environment.answer
  split
  · rcases e.generalAnswer_cases expBus a ops with ⟨-, -, -, -, -, hp⟩ | ⟨c', answer, script, draws, hc, heq⟩
    · rw [hp]
    · obtain ⟨-, -, -, hp⟩ := e.recordRegs_keeps expBus c' (ops := ops) answer
      have hne : c' ≠ c := by rintro rfl; exact h hc
      rw [heq]
      refine (Vector.getElem_set_ne c'.isLt c.isLt fun hv => hne (Fin.ext hv)).trans ?_
      rw [hp]; rfl
  · rcases e.referenceAnswer_cases expBus a ops with heq | ⟨b, heq⟩ | ⟨c', g', v, hc, -, heq⟩ <;> rw [heq]
    rw [(e.referenceWrite_keeps c' g' v).2.2.2]

end

/-! ## The bus operations of a command -/

/-- A bus operation of the driver: no host's list, and a register that it writes stores (R61). -/
def BusStep.isDriver : BusStep → Prop
  | .forward _ _ _ => False
  | .readKept _ _ _ => True
  | .writeReg _ _ g _ => isStorageReg g = true
  | .readTmp _ _ _ => True
  | .writeTmp _ _ g _ _ => isStorageReg g = true
  | .readPorts _ _ => True

theorem rmwSteps_isDriver (h : BusHandle) (p : Pin) {base : Byte} (set : Bool)
    (hbase : isStorageReg base = true ∧ isStorageReg (base + 1) = true) :
    ∀ b ∈ rmwSteps h p base set, b.isDriver := by
  have hreg : isStorageReg (portReg base p) = true := by
    rw [portReg_eq]; split
    · exact hbase.1
    · exact hbase.2
  simp [rmwSteps, BusStep.isDriver, hreg]

theorem dutySteps_isDriver (h : BusHandle) (p : Pin) (duty : Byte) : ∀ b ∈ dutySteps h p duty, b.isDriver := by
  have hreg : ∀ (port : Fin 2) (bit : Fin 8), isStorageReg (dimReg ⟨0, port, bit⟩) = true := by decide
  simp only [dutySteps, List.mem_singleton, forall_eq]
  exact hreg p.port p.bit

/-- A command that is no bus command, and no `REG_WRITE`, has bus operations of the driver alone. -/
theorem commandSteps_isDriver (P : Params) {i : Instr} (hi : isBusCommand i = false)
    (hw : ∀ h a g v, i ≠ .regWrite h a g v) : ∀ b ∈ commandSteps P i, b.isDriver := by
  have ledms (p : Pin) (set : Bool) := rmwSteps_isDriver P.expBus p (base := regLedms) set (by decide)
  have config (p : Pin) (set : Bool) := rmwSteps_isDriver P.expBus p (base := regConfig) set (by decide)
  have output (p : Pin) (set : Bool) := rmwSteps_isDriver P.expBus p (base := regOutput) set (by decide)
  have both {xs ys : List BusStep} (hx : ∀ b ∈ xs, b.isDriver) (hy : ∀ b ∈ ys, b.isDriver) :
      ∀ b ∈ xs ++ ys, b.isDriver := fun b hb => (List.mem_append.1 hb).elim (hx b) (hy b)
  cases i with
  | busRead | busWrite | busWriteRead | busTransaction => cases hi
  | regWrite h a g v => exact absurd rfl (hw h a g v)
  | regRead | chipInit | capInRead | snapRead =>
    simp [commandSteps, regReadSteps, chipInitSteps, capInReadSteps, snapReadSteps, BusStep.isDriver, isStorageReg,
      regCtl, regIntP0, regIntP1]
  | pinSetMode p m => exact ledms p _
  | pinSetDir p d => exact config p _
  | pinSetState p l | capOutSet p l => exact output p _
  | pinSetDuty p | pinSetDutyFrac p | pinSetDutyPct p | capLedDuty p | capLedDutyFrac p | capLedDutyPct p =>
    exact dutySteps_isDriver _ p _
  | capIntoOutput p | capIntoInput p => exact both (ledms p _) (config p _)
  | capIntoLed p =>
    refine both (ledms p _) ?_
    split
    · simp
    · exact config p _
  | hexSetEnabled k e =>
    simp only [commandSteps, hexSetEnabledSteps]
    split
    · exact both (ledms _ _) (config _ _)
    · exact both (ledms _ _) (both (config _ _) (output _ _))
  | pinMaxDuty | pidEncode | snapPinState | btnUpdate | hexUpdate => simp [commandSteps]

theorem commandSteps_forward {P : Params} {i : Instr} {h : BusHandle} {a : Addr} {ops : List BusOp}
    (hi : isBusCommand i = false) : .forward h a ops ∉ commandSteps P i := by
  intro hb
  by_cases hw : ∃ h a g v, i = .regWrite h a g v
  · obtain ⟨h, a, g, v, rfl⟩ := hw
    simp [commandSteps, regWriteSteps] at hb
  · exact commandSteps_isDriver P hi (fun h a g v e => hw ⟨h, a, g, v, e⟩) _ hb

theorem commandSteps_of_bus (P : Params) {i : Instr} (hi : isBusCommand i = true) :
    ∃ h a ops, commandSteps P i = [.forward h a ops] := by
  cases i with
  | busRead | busWrite | busWriteRead | busTransaction => exact ⟨_, _, _, rfl⟩
  | _ => cases hi

/-- The payload of a bus operation of the driver is one of three shapes (R61). -/
theorem BusStep.payload_shape {b : BusStep} (h : ∀ h a ops, b ≠ .forward h a ops) (tmp : Byte) :
    (∃ g, b.payload tmp = [.write [g], .read 1]) ∨ (∃ g v, b.payload tmp = [.write [g, v]]) ∨
    b.payload tmp = [.write [0x00, 0x01], .read 2] := by
  cases b with
  | forward h' a ops => exact absurd rfl (h h' a ops)
  | readKept | readTmp => exact .inl ⟨_, rfl⟩
  | writeReg | writeTmp => exact .inr (.inl ⟨_, _, rfl⟩)
  | readPorts => exact .inr (.inr rfl)

/-- A bus operation of the driver leaves every offset that it does not write. -/
theorem BusStep.payload_leaves {b : BusStep} (h : b.isDriver) (tmp : Byte) {a : Addr} {g : Byte} (ha : b.addr = a)
    (hg : b.stores ≠ some (a, g)) : leavesOffset g (b.payload tmp) := by
  subst ha
  cases b with
  | forward => exact h.elim
  | readKept | readTmp => exact .inr (.inl ⟨_, rfl⟩)
  | writeReg h' a g' v => exact .inl ⟨g', v, rfl, h, fun e => hg (by rw [← e]; rfl)⟩
  | writeTmp h' a g' m set => exact .inl ⟨g', _, rfl, h, fun e => hg (by rw [← e]; rfl)⟩
  | readPorts => exact .inr (.inr (.inl rfl))

/-! ## What a command does to the bus -/

section
variable {s t : State} {r : Nat} {i : Instr} {P : Params}

theorem State.AtOperation.mem {b : BusStep} (h : s.AtOperation r i P b) : b ∈ commandSteps P i :=
  List.mem_of_getElem? h.next

/-- A micro-step leaves the wire and the environment alone, or adds the one transaction that is due. -/
theorem State.MicroMove.quiet_or_transaction (h : s.MicroMove r i P t) :
    (t.wire = s.wire ∧ t.env = s.env) ∨
    ∃ b role a ops, s.AtOperation r i P b ∧ s.Due r b role a ops ∧
      t.env = (s.env.answer s.cfg.expBus a ops).2 ∧
      t.wire = s.wire ++ [⟨r, b.handle, role, a, ops, (s.env.answer s.cfg.expBus a ops).1⟩] := by
  cases h with
  | still | start | refuse | complete | takeLock | joinWait => left; simp
  | @select b n rx hop _ hh hs => exact .inr ⟨b, _, _, _, hop, .inl ⟨n, hh, hs, rfl, rfl, rfl⟩, rfl, rfl⟩
  | @payload b rx hop _ hsent => exact .inr ⟨b, _, _, _, hop, .inr ⟨hsent, rfl, rfl, rfl⟩, by simp, by simp⟩
  | @fail b role a ops k hop _ hdue => exact .inr ⟨b, role, a, ops, hop, hdue, by simp, by simp⟩
  | @hang b role a ops hop _ hdue => exact .inr ⟨b, role, a, ops, hop, hdue, rfl, rfl⟩

/-- A property of the environment that the answer to every select write and every payload of command `i` keeps is kept
by the whole meaning. -/
theorem exec_keeps_env {Q : Environment → Prop} (he : exec i s = .next t)
    (hselect : ∀ e n, Q e → Q (e.answer s.cfg.expBus muxAddr [.write [selectByte n]]).2)
    (hpayload : ∀ e b tmp, b ∈ commandSteps s.cfg i → Q e → Q (e.answer s.cfg.expBus b.addr (b.payload tmp)).2)
    (hq : Q s.env) : Q t.env := by
  refine exec_keeps_moves (Q := fun u => Q u.env) he hq (fun _ _ => hq) fun u v hu hcfg _ hm => ?_
  rcases hm.quiet_or_transaction with ⟨-, henv⟩ | ⟨b, role, a, ops, hop, hdue, henv, -⟩
  · rw [henv]; exact hu
  · rw [henv, hcfg]
    rcases hdue with ⟨n, -, -, -, rfl, rfl⟩ | ⟨-, -, rfl, rfl⟩
    · exact hselect u.env n hu
    · exact hpayload u.env b _ hop.mem hu

/-- A bus operation of a driver command leaves every register it does not write; of the chip a `REG_WRITE` is addressed
to this is said for the offsets that store. -/
theorem commandSteps_leaves {b : BusStep} {c : Fin 3} {g : Byte} (hi : isBusCommand i = false)
    (hw : ∀ h a g' v, i = .regWrite h a g' v → a = chipAddr c → isStorageReg g' = true) (hb : b ∈ commandSteps P i)
    (hg : b.stores ≠ some (chipAddr c, g)) (tmp : Byte) (ha : b.addr = chipAddr c) :
    leavesOffset g (b.payload tmp) := by
  refine BusStep.payload_leaves ?_ tmp ha hg
  by_cases hreg : ∃ h a g v, i = .regWrite h a g v
  · obtain ⟨h, a, g', v, rfl⟩ := hreg
    obtain rfl : b = .writeReg h a g' v := by simpa [commandSteps, regWriteSteps] using hb
    exact hw h a g' v rfl ha
  · exact commandSteps_isDriver P hi (fun h a g v e => hreg ⟨h, a, g, v, e⟩) b hb

end

end Sys2Proof.Machine
end

section
/-! The statements about the wire and the chips (20_memory.md, 40_bus_ops.md, 95_test_vectors.md section 2). -/

namespace Sys2Proof.Machine

/-! ## Frames of the chips -/

/-- Settles O24: a select write reaches no chip, and a payload of the driver leaves what it does not name. -/
theorem driverCommandsWriteOnlyTheirRegisters : Obligations.DriverCommandsWriteOnlyTheirRegisters := by
  intro s t i he hi
  have hkeeps : t.env.pins = s.env.pins ∧ t.env.absent = s.env.absent ∧ t.env.law = s.env.law := by
    refine exec_keeps_env (Q := fun e => e.pins = s.env.pins ∧ e.absent = s.env.absent ∧ e.law = s.env.law) he ?_ ?_
      ⟨rfl, rfl, rfl⟩
    · rintro e n ⟨hp, ha, hl⟩
      obtain ⟨hp', ha', hl'⟩ := e.answer_keeps s.cfg.expBus muxAddr [.write [selectByte n]]
      exact ⟨hp'.trans hp, ha'.trans ha, hl'.trans hl⟩
    · rintro e b tmp - ⟨hp, ha, hl⟩
      obtain ⟨hp', ha', hl'⟩ := e.answer_keeps s.cfg.expBus b.addr (b.payload tmp)
      exact ⟨hp'.trans hp, ha'.trans ha, hl'.trans hl⟩
  obtain ⟨hpins, habsent, hlaw⟩ := hkeeps
  refine ⟨hpins, habsent, hlaw, fun c g hw hstores => ?_, fun c haddr => ?_⟩
  · refine exec_keeps_env (Q := fun e => e.reg c g = s.env.reg c g) he (fun e n h => ?_) (fun e b tmp hb h => ?_) rfl
    · exact (e.answer_reg _ _ c fun hc => absurd hc.symm (chipAddr_ne_muxAddr c)).trans h
    · exact (e.answer_reg _ _ c (commandSteps_leaves hi hw hb (hstores b hb) tmp)).trans h
  · refine exec_keeps_env (Q := fun e => e.pointer[c] = s.env.pointer[c]) he (fun e n h => ?_)
      (fun e b tmp hb h => ?_) rfl
    · exact (e.answer_pointer _ _ c (chipAddr_ne_muxAddr c).symm).trans h
    · exact (e.answer_pointer _ _ c (haddr b hb)).trans h

/-- Settles O25: the one payload is the host's own list. -/
theorem busCommandsLeaveOtherChips : Obligations.BusCommandsLeaveOtherChips := by
  intro s t i h a ops he hi hsteps
  have hforward {b : BusStep} (hb : b ∈ commandSteps s.cfg i) : b = .forward h a ops := by simpa [hsteps] using hb
  refine ⟨?_, fun c g hc => ?_, fun c hc => ?_⟩
  · exact exec_keeps_env (Q := fun e => e.pins = s.env.pins) he
      (fun e n h => (e.answer_keeps _ _ _).1.trans h) (fun e b tmp _ h => (e.answer_keeps _ _ _).1.trans h) rfl
  · refine exec_keeps_env (Q := fun e => e.reg c g = s.env.reg c g) he (fun e n h => ?_) (fun e b tmp hb h => ?_) rfl
    · exact (e.answer_reg _ _ c fun hc => absurd hc.symm (chipAddr_ne_muxAddr c)).trans h
    · obtain rfl := hforward hb
      refine (e.answer_reg _ _ c fun ha => ?_).trans h
      rcases hc with hne | hreads
      · exact absurd ha.symm hne
      · exact .inr (.inr (.inr hreads))
  · refine exec_keeps_env (Q := fun e => e.pointer[c] = s.env.pointer[c]) he (fun e n h => ?_)
      (fun e b tmp hb h => ?_) rfl
    · exact (e.answer_pointer _ _ c (chipAddr_ne_muxAddr c).symm).trans h
    · obtain rfl := hforward hb
      exact (e.answer_pointer _ _ c hc.symm).trans h

/-! ## The wire -/

theorem selectByte_eq_getD (n : Fin 8) :
    selectByte n = [0x01, 0x02, 0x04, 0x08, 0x10, 0x20, 0x40, 0x80].getD n.val 0 := by
  revert n; decide

/-- Settles O26: the select write is the first transaction, and only its acknowledgement is followed by a second. -/
theorem selectByteComesFirst : Obligations.SelectByteComesFirst := by
  intro s r n a ops
  rw [← selectByte_eq_getD]
  rcases hp : s.phys r (.channel n) .select muxAddr [.write [selectByte n]] with ⟨o, s1⟩
  have hwire : s1.wire = s.wire ++ [⟨r, .channel n, .select, 0x77, [.write [selectByte n]], o⟩] := by
    cases hp; rfl
  simp only [State.busOp, hp]
  cases o with
  | ok rx =>
    refine ⟨.ok rx, [_], ?_, fun _ _ => rfl, fun h => absurd rfl (h rx)⟩
    rw [State.phys_wire, hwire, List.append_assoc]; rfl
  | err k => exact ⟨.err k, [], hwire, fun _ h => (by cases h), fun _ => ⟨rfl, rfl⟩⟩
  | never => exact ⟨.never, [], hwire, fun _ h => (by cases h), fun _ => ⟨rfl, rfl⟩⟩

/-- A transaction of requester `r` for command `i` has one of the listed shapes (R61). -/
def WireEvent.listed (e : WireEvent) (P : Params) (r : Nat) (i : Instr) : Prop :=
  e.requester = r ∧
    ((e.role = .select ∧ e.addr = 0x77 ∧ ∃ n : Fin 8, e.handle = .channel n ∧
        e.ops = [.write [BitVec.ofNat 8 (2 ^ n.val)]]) ∨
     (e.role = .payload ∧ isBusCommand i ∧ commandSteps P i = [.forward e.handle e.addr e.ops]) ∨
     (e.role = .payload ∧ isBusCommand i = false ∧
       ((∃ g, e.ops = [.write [g], .read 1]) ∨ (∃ g v, e.ops = [.write [g, v]]) ∨
         e.ops = [.write [0x00, 0x01], .read 2])))

/-- The transaction that is due has one of the listed shapes. -/
theorem State.Due.listed {s : State} {r : Nat} {i : Instr} {P : Params} {b : BusStep} {role : WireRole} {a : Addr}
    {ops : List BusOp} (hb : b ∈ commandSteps P i) (h : s.Due r b role a ops) (answer : Reply) :
    WireEvent.listed ⟨r, b.handle, role, a, ops, answer⟩ P r i := by
  refine ⟨rfl, ?_⟩
  rcases h with ⟨n, hh, -, rfl, rfl, rfl⟩ | ⟨-, rfl, rfl, rfl⟩
  · exact .inl ⟨rfl, rfl, n, hh, by rw [selectByte_eq_two_pow]⟩
  · right
    cases hi : isBusCommand i with
    | true =>
      obtain ⟨h, a, ops, hsteps⟩ := commandSteps_of_bus P hi
      obtain rfl : b = .forward h a ops := by simpa [hsteps] using hb
      exact .inl ⟨rfl, rfl, hsteps⟩
    | false =>
      exact .inr ⟨rfl, rfl, BusStep.payload_shape (fun h a ops e => commandSteps_forward hi (e ▸ hb)) _⟩

/-- Settles O27: each transaction is the one that is due in a bus operation of the command. -/
theorem commandsSendOnlyTheListedShapes : Obligations.CommandsSendOnlyTheListedShapes := by
  intro s t i he
  refine exec_keeps_moves (Q := fun u => ∃ new, u.wire = s.wire ++ new ∧
    ∀ e ∈ new, e.listed s.cfg s.turn.requester i) he ⟨[], by simp⟩ (fun _ _ => ⟨[], by simp⟩) ?_
  rintro u v ⟨new, hwire, hnew⟩ - - hm
  rcases hm.quiet_or_transaction with ⟨hv, -⟩ | ⟨b, role, a, ops, hop, hdue, -, hv⟩
  · exact ⟨new, hv.trans hwire, hnew⟩
  · refine ⟨new ++ [_], by rw [hv, hwire, List.append_assoc], fun e he => ?_⟩
    rcases List.mem_append.1 he with he | he
    · exact hnew e he
    · rw [List.mem_singleton.1 he]
      exact hdue.listed hop.mem _

/-! ## Counts -/

theorem State.phys_wire_length {s s1 : State} {r : Nat} {h : BusHandle} {role : WireRole} {a : Addr}
    {ops : List BusOp} {answer : Reply} (e : s.phys r h role a ops = (answer, s1)) :
    s1.wire.length = s.wire.length + 1 := by
  obtain rfl : (s.phys r h role a ops).2 = s1 := congrArg Prod.snd e
  simp

/-- A bus operation that delivers is one transaction on the direct handle and two on a channel (R67). -/
theorem State.busOp_wire_length {s s1 : State} {r : Nat} {h : BusHandle} {a : Addr} {ops : List BusOp} {rx : List Byte}
    (e : s.busOp r h a ops = (.ok rx, s1)) : s1.wire.length = s.wire.length + if h = .direct then 1 else 2 := by
  cases h with
  | direct => exact State.phys_wire_length e
  | channel n =>
    rcases hp : s.phys r (.channel n) .select muxAddr [.write [selectByte n]] with ⟨o, s2⟩
    simp only [State.busOp, hp] at e
    cases o with
    | ok _ => rw [State.phys_wire_length e, State.phys_wire_length hp, if_neg (by simp)]
    | err _ | never => cases e

theorem BusStep.keepTmp_wire (b : BusStep) (rx : List Byte) (r : Nat) (s : State) :
    (b.keepTmp rx r s).wire = s.wire := by cases b <;> rfl

/-- The transactions of bus operations that all deliver, by induction on their list. -/
theorem State.runSteps_wire_length {r : Nat} {direct : Bool} (steps : List BusStep)
    (hdirect : ∀ b ∈ steps, b.handle = .direct ↔ direct = true) {s s1 : State} {held rx : List Byte}
    (e : s.runSteps r steps held = (.ok rx, s1)) :
    s1.wire.length = s.wire.length + (if direct then 1 else 2) * steps.length := by
  induction steps generalizing s held with
  | nil => cases e; simp
  | cons b rest ih =>
    obtain ⟨hb, hrest⟩ := List.forall_mem_cons.1 hdirect
    rcases hop : s.busOp r b.handle b.addr (b.payload (s.seq r).tmp) with ⟨answer, s2⟩
    cases answer with
    | ok rx2 =>
      have hlen := State.busOp_wire_length hop
      rw [State.runSteps_cons_ok hop] at e
      rw [ih hrest e, BusStep.keepTmp_wire, hlen, List.length_cons]
      simp only [hb]
      split <;> omega
    | err k => rw [State.runSteps_cons_err hop] at e; cases e
    | never => rw [State.runSteps_cons_never hop] at e; cases e

theorem commandSteps_capIntoLed_length (P : Params) (p : Pin) :
    (commandSteps P (.capIntoLed p)).length = if P.ledDirWrite = .output then 4 else 2 := by
  cases hP : P.ledDirWrite <;> simp [commandSteps, capIntoLedSteps, rmwSteps, hP]

/-- Settles O28: each operation counts for itself, and the counts of operations are the lengths of the table's lists. -/
theorem wireTransactionCounts : Obligations.WireTransactionCounts := by
  refine ⟨?_, ?_, ?_, ?_, ?_⟩
  · intro s s1 r i held direct hdirect e
    exact State.runSteps_wire_length _ hdirect e
  · intros; exact ⟨rfl, rfl, rfl, rfl, rfl, rfl⟩
  · intro P p c m d l v num den
    exact ⟨rfl, rfl, rfl, rfl, rfl, rfl, rfl, rfl, rfl, rfl, commandSteps_capIntoLed_length P p, rfl, rfl, rfl, rfl, rfl,
      rfl⟩
  · intros; exact ⟨rfl, rfl, rfl, rfl, rfl, rfl⟩
  · intro P hP
    simp [bootSequence, bootChips, bootButtons, bootSlots, hP, sixIndexes, commandSteps, chipInitSteps,
      capIntoInputSteps, hexSetEnabledSteps, rmwSteps]

/-! ## Operations of length 0 -/

theorem descriptorsNonempty_eq_false {ops : List BusOp} (h : ops = [] ∨ .read 0 ∈ ops ∨ .write [] ∈ ops) :
    descriptorsNonempty ops = false := by
  rw [descriptorsNonempty, Bool.and_eq_false_iff, List.all_eq_false]
  rcases h with rfl | h | h
  · exact .inl rfl
  · exact .inr ⟨_, h, by simp [descriptorNonempty]⟩
  · exact .inr ⟨_, h, by simp [descriptorNonempty]⟩

/-- Settles O31: admission looks at the lengths. -/
theorem zeroLengthsAreRefused : Obligations.ZeroLengthsAreRefused := by
  intro s r h a hissue
  refine ⟨isRefused_of_refused hissue rfl, isRefused_of_refused hissue rfl, fun w n hwn => ?_, fun ops hops => ?_⟩
  · refine isRefused_of_refused hissue ?_
    rcases hwn with rfl | rfl <;> simp [commandAdmission, admitIf]
  · refine isRefused_of_refused hissue ?_
    rw [commandAdmission, descriptorsNonempty_eq_false hops]; rfl

end Sys2Proof.Machine
end

section
/-! SUPPORT. A command inside a transaction that never completes (R63), and a command resumed before one of its bus
operations (R24): the same states of a command in progress as for one that runs to its end. -/

namespace Sys2Proof.Machine

section
variable {s s1 : State} {r idx n : Nat} {i : Instr} {P : Params} {held rx : List Byte} {b : BusStep} {sel : Bool}

/-! ## A transaction that never completes -/

/-- The state in which requester `r` waits for ever inside bus operation `idx` of its command `i`. -/
def State.stuckIn (s : State) (r : Nat) (i : Instr) (idx : Nat) (held : List Byte) (sel : Bool) : State :=
  (s.inOperation r i idx held sel).hang r

theorem State.stuckIn_cmd (hr : r < s.reqs.length) : ((s.stuckIn r i idx held sel).req r).cmd = some i := by
  rw [State.stuckIn, State.hang, State.setSeq_cmd _ _ (by simpa [State.inOperation] using hr)]
  exact State.inOperation_cmd hr

theorem State.stuckIn_hung (hr : r < s.reqs.length) : ((s.stuckIn r i idx held sel).seq r).hung = true := by
  rw [State.stuckIn, State.hang, State.setSeq_seq _ _ (by simpa [State.inOperation] using hr)]

/-- A turn that enters a transaction that never completes ends there, however long it is. -/
theorem State.turnOn_stuckIn (hr : r < s.reqs.length) :
    (s.stuckIn r i idx held sel).turnOn r i P n = s.stuckIn r i idx held sel :=
  State.turnOn_of_still (State.micro_of_hung (State.stuckIn_hung hr)) n

/-- The select write that never completes (R63, R132). -/
theorem State.inOperation_select_never {c : Fin 8} (hu : s.Unblocked r) (hh : b.handle = .channel c)
    (e : s.phys r (.channel c) .select muxAddr [.write [selectByte c]] = (.never, s1)) :
    (s.inOperation r i idx held false).busMicro r b = s1.stuckIn r i idx held false := by
  have hlock : (s.inOperation r i idx held false).lock = .held r := rfl
  simp [State.busMicro, hlock, hh, State.inOperation_seq hu.port, State.inOperation_phys, e, State.stuckIn]

/-- The payload that never completes (R63, R132). -/
theorem State.inOperation_payload_never (hu : s.Unblocked r) (hh : b.handle = .direct ∨ sel = true)
    (e : s.phys r b.handle .payload b.addr (b.payload (s.seq r).tmp) = (.never, s1)) :
    (s.inOperation r i idx held sel).busMicro r b = s1.stuckIn r i idx held sel := by
  rcases State.busMicro_cases (s.inOperation r i idx held sel) r b with ⟨hl, _⟩ | ⟨_, d, hd, hs, _⟩ | ⟨_, _, answer, t, ht, h⟩
  · exact absurd rfl hl
  · rw [State.inOperation_seq hu.port] at hs
    simp [hd, show sel = false from hs] at hh
  · rw [State.inOperation_seq hu.port, State.inOperation_phys, e] at ht
    cases ht
    simpa [State.stuckIn] using h

/-- A bus operation whose one-piece reading never completes: the command is stuck in it (R132). -/
theorem State.turnOn_busOperation_never (hu : s.Unblocked r) (hb : (commandSteps P i)[idx]? = some b)
    (e : s.busOp r b.handle b.addr (b.payload (s.seq r).tmp) = (.never, s1)) :
    ∃ sel, (s.inCommand r i idx held).turnOn r i P (n + microStepsOn b.handle) = s1.stuckIn r i idx held sel := by
  have takeLock (m : Nat) : (s.inCommand r i idx held).turnOn r i P (m + 1) =
      (s.inOperation r i idx held false).turnOn r i P m := by
    rw [State.turnOn_of_cmd (State.inCommand_cmd hu.port), State.inCommand_micro hu hb]
  cases hh : b.handle with
  | direct =>
    rw [hh, State.busOp, ← hh] at e
    refine ⟨false, ?_⟩
    rw [microStepsOn, takeLock, State.turnOn_of_cmd (State.inOperation_cmd hu.port), State.inOperation_micro hu hb,
      State.inOperation_payload_never hu (.inl hh) e, State.turnOn_stuckIn (hu.phys e).port]
  | channel c =>
    rcases hp : s.phys r (.channel c) .select muxAddr [.write [selectByte c]] with ⟨select, s2⟩
    have selectFirst : (s.inCommand r i idx held).turnOn r i P (n + microStepsOn (.channel c)) =
        ((s.inOperation r i idx held false).busMicro r b).turnOn r i P (n + 1) := by
      rw [microStepsOn, takeLock, State.turnOn_of_cmd (State.inOperation_cmd hu.port), State.inOperation_micro hu hb]
    rw [selectFirst]
    simp only [hh, State.busOp, hp] at e
    cases select with
    | ok rx2 =>
      have hu2 := hu.phys hp
      rw [← hh, ← State.seq_of_reqs_eq (State.phys_keeps hp).1] at e
      refine ⟨true, ?_⟩
      rw [(State.inOperation_select hu hh hp).1 rx2 rfl, State.turnOn_of_cmd (State.inOperation_cmd hu2.port),
        State.inOperation_micro hu2 hb, State.inOperation_payload_never hu2 (.inr rfl) e,
        State.turnOn_stuckIn (hu2.phys e).port]
    | err k => cases e
    | never =>
      cases e
      exact ⟨false, by rw [State.inOperation_select_never hu hh hp, State.turnOn_stuckIn (hu.phys hp).port]⟩

theorem BusStep.keepTmp_responses (b : BusStep) (rx : List Byte) (r : Nat) (s : State) :
    (b.keepTmp rx r s).responses = s.responses := by cases b <;> rfl

/-- A bus operation in one piece leaves the local state and the responses as they are (R60, R132). -/
theorem State.busOp_keeps_local {h : BusHandle} {a : Addr} {ops : List BusOp} {answer : Reply}
    (e : s.busOp r h a ops = (answer, s1)) :
    s1.btn = s.btn ∧ s1.hex = s.hex ∧ s1.cap = s.cap ∧ s1.responses = s.responses := by
  cases h with
  | direct =>
    obtain ⟨hbtn, hhex, hcap, -, -, -, hresp⟩ := State.phys_keeps_local e
    exact ⟨hbtn, hhex, hcap, hresp⟩
  | channel n =>
    rcases hp : s.phys r (.channel n) .select muxAddr [.write [selectByte n]] with ⟨select, s2⟩
    obtain ⟨hbtn, hhex, hcap, -, -, -, hresp⟩ := State.phys_keeps_local hp
    simp only [State.busOp, hp] at e
    cases select with
    | ok _ =>
      obtain ⟨hbtn', hhex', hcap', -, -, -, hresp'⟩ := State.phys_keeps_local e
      exact ⟨hbtn'.trans hbtn, hhex'.trans hhex, hcap'.trans hcap, hresp'.trans hresp⟩
    | err _ | never => cases e; exact ⟨hbtn, hhex, hcap, hresp⟩

theorem State.busOp_responses {h : BusHandle} {a : Addr} {ops : List BusOp} {answer : Reply}
    (e : s.busOp r h a ops = (answer, s1)) : s1.responses = s.responses := by
  obtain ⟨-, -, -, hresp⟩ := State.busOp_keeps_local e
  exact hresp

/-- The rest of a command whose one-piece reading never completes, by induction on the bus operations still ahead. -/
theorem State.turnOn_runSteps_never (rest : List BusStep) (hu : s.Unblocked r)
    (hrest : (commandSteps P i).drop idx = rest) (hn : 3 * rest.length + 1 ≤ n)
    (e : s.runSteps r rest held = (.never, s1)) :
    s1.responses = s.responses ∧ r < s1.reqs.length ∧ ∃ idx' held' sel,
      (s.inCommand r i idx held).turnOn r i P n = s1.stuckIn r i idx' held' sel := by
  induction rest generalizing s idx held n with
  | nil => cases e
  | cons b rest ih =>
    have hb : (commandSteps P i)[idx]? = some b := by
      have := congrArg (·[0]?) hrest
      simpa using this
    have hnext : (commandSteps P i).drop (idx + 1) = rest := by rw [← List.tail_drop, hrest, List.tail_cons]
    have hmicro := microStepsOn_le b.handle
    rw [List.length_cons] at hn
    obtain ⟨m, rfl⟩ : ∃ m, n = m + microStepsOn b.handle := ⟨n - microStepsOn b.handle, by omega⟩
    rcases hop : s.busOp r b.handle b.addr (b.payload (s.seq r).tmp) with ⟨answer, s2⟩
    cases answer with
    | ok rx =>
      obtain ⟨hok, -⟩ := State.turnOn_busOperation (held := held) (n := m) hu hb hop
      rw [State.runSteps_cons_ok hop] at e
      obtain ⟨hresp, hport, hstuck⟩ := ih (n := m) ((hu.busOp hop).keepTmp b rx) hnext (by omega) e
      rw [BusStep.keepTmp_responses, State.busOp_responses hop] at hresp
      exact ⟨hresp, hport, by rw [hok rx rfl]; exact hstuck⟩
    | err k => rw [State.runSteps_cons_err hop] at e; cases e
    | never =>
      rw [State.runSteps_cons_never hop] at e
      cases e
      obtain ⟨sel, hstuck⟩ := State.turnOn_busOperation_never (held := held) (n := m) hu hb hop
      exact ⟨State.busOp_responses hop, (hu.busOp hop).port, idx, held, sel, hstuck⟩

/-- The first micro-step of an admitted command with bus operations starts it (R24, R73). -/
theorem exec_of_admitted (h : s.mayIssue r (n + 1)) (ha : commandAdmission i s r = .admitted)
    (hne : commandSteps s.cfg i ≠ []) :
    ∃ m, n ≤ m ∧ exec i s = .next ((s.inCommand r i 0 []).turnOn r i s.cfg m) := by
  have ⟨_, hr, _, hwait, hbudget⟩ := h
  obtain ⟨m, hm⟩ : ∃ m, s.turn.budget = m + 1 := ⟨s.turn.budget - 1, by omega⟩
  have hcmd : ((s.load r i).req r).cmd = some i := by rw [State.load_req s r i hr]
  have hstart : (s.load r i).setSeq r ⟨true, 0, false, false, (s.seq r).tmp, []⟩ = s.inCommand r i 0 [] := by
    simp [State.setSeq, State.load, State.inCommand, hr]
  have hstarts : (s.load r i).micro r i s.cfg = s.inCommand r i 0 [] := by
    simp [State.micro, State.microStep, State.load_seq i hr, Seq.cleared, hwait, commandAdmission_load, ha, hne, hstart]
  exact ⟨m, by omega, by rw [exec_of_mayIssue i h, hm, State.turnOn_of_cmd hcmd, hstarts]⟩

/-! ## A command resumed before a bus operation -/

/-- A requester that is resumed between two bus operations is a command in progress. -/
theorem State.eq_inCommand (hcmd : (s.req r).cmd = some i) (hstarted : (s.seq r).started = true)
    (hhung : (s.seq r).hung = false) (hselected : (s.seq r).selected = false) :
    s = s.inCommand r i (s.seq r).idx (s.seq r).held := by
  have hport : (⟨some i, ⟨true, (s.seq r).idx, false, false, (s.seq r).tmp, (s.seq r).held⟩, (s.req r).res⟩ : Requester) =
      s.req r := by
    rw [← hcmd, ← hstarted]
    nth_rewrite 1 [← hselected]
    rw [← hhung]
    rfl
  rw [State.inCommand, hport, State.setReq_req]

end

/-! ## The write of a read-modify-write stands behind its read -/

/-- Each write of `TMP` in a list of bus operations stands right behind the read of the same register of a pin, and
changes that pin's bit (R152). -/
def writesBehindReads (E : BusHandle) (steps : List BusStep) : Prop :=
  ∀ (k : Nat) (h : BusHandle) (a : Addr) (g mask : Byte) (set : Bool), steps[k]? = some (.writeTmp h a g mask set) →
    ∃ (j : Nat) (p : Pin), k = j + 1 ∧ steps[j]? = some (.readTmp h a g) ∧ h = E ∧ a = chipAddr p.chip ∧
      ∀ v, modifyBit set mask v = withBit p set v

theorem writesBehindReads_of_none {E : BusHandle} {steps : List BusStep}
    (hnone : ∀ h a g mask set, .writeTmp h a g mask set ∉ steps) : writesBehindReads E steps :=
  fun _ h a g mask set hk => absurd (List.mem_of_getElem? hk) (hnone h a g mask set)

theorem writesBehindReads_rmwSteps (E : BusHandle) (p : Pin) (base : Byte) (set : Bool) :
    writesBehindReads E (rmwSteps E p base set) := by
  intro k h a g mask set' hk
  match k, hk with
  | 0, hk => cases hk
  | 1, hk => cases hk; exact ⟨0, p, rfl, rfl, rfl, rfl, modifyBit_pinMask p set⟩
  | k + 2, hk => simp [rmwSteps] at hk

theorem writesBehindReads.append {E : BusHandle} {xs ys : List BusStep} (hx : writesBehindReads E xs)
    (hy : writesBehindReads E ys) : writesBehindReads E (xs ++ ys) := by
  intro k h a g mask set hk
  by_cases hlt : k < xs.length
  · rw [List.getElem?_append_left hlt] at hk
    obtain ⟨j, p, rfl, hj, hrest⟩ := hx k h a g mask set hk
    exact ⟨j, p, rfl, by rwa [List.getElem?_append_left (by omega)], hrest⟩
  · rw [List.getElem?_append_right (by omega)] at hk
    obtain ⟨j, p, hkj, hj, hrest⟩ := hy _ h a g mask set hk
    refine ⟨xs.length + j, p, by omega, ?_, hrest⟩
    rwa [List.getElem?_append_right (by omega), Nat.add_sub_cancel_left]

theorem commandSteps_writesBehindReads (P : Params) (i : Instr) : writesBehindReads P.expBus (commandSteps P i) := by
  have rmw (p : Pin) (base : Byte) (set : Bool) := writesBehindReads_rmwSteps P.expBus p base set
  cases i with
  | pinSetMode p m => exact rmw p _ _
  | pinSetDir p d => exact rmw p _ _
  | pinSetState p l | capOutSet p l => exact rmw p _ _
  | capIntoOutput p | capIntoInput p => exact (rmw p _ _).append (rmw p _ _)
  | capIntoLed p =>
    refine (rmw p _ _).append ?_
    split
    · exact writesBehindReads_of_none (by simp)
    · exact rmw p _ _
  | hexSetEnabled k e =>
    simp only [commandSteps, hexSetEnabledSteps]
    split
    · exact (rmw _ _ _).append (rmw _ _ _)
    · exact (rmw _ _ _).append ((rmw _ _ _).append (rmw _ _ _))
  | _ =>
    refine writesBehindReads_of_none ?_
    simp [commandSteps, busReadSteps, busWriteSteps, busWriteReadSteps, busTransactionSteps, regReadSteps, regWriteSteps,
      chipInitSteps, dutySteps, capInReadSteps, snapReadSteps]

/-! ## The record of the chips does not steer (R62; log 5) -/

/-- The same machine on another environment. -/
def State.withEnv (s : State) (e : Environment) : State := { s with env := e }

/-- Two environments under no law that answer alike: they foresee the same replies and have drawn as many. -/
structure Environment.Alike (e e' : Environment) : Prop where
  law : e.law = .general
  law' : e'.law = .general
  script : e'.script = e.script
  draws : e'.draws = e.draws

/-- What two runs on environments that answer alike end with: the same machine, but for the environments, which
answer alike again and keep their own pin levels and absences. -/
def State.Parallel (e' : Environment) (t t' : State) : Prop :=
  ∃ f, t' = t.withEnv f ∧ t.env.Alike f ∧ f.pins = e'.pins ∧ f.absent = e'.absent

section
variable {s t : State} {e' : Environment} {r : Nat} {i : Instr} {P : Params}

theorem State.Parallel.refl (h : s.env.Alike e') : State.Parallel e' s (s.withEnv e') := ⟨e', rfl, h, rfl, rfl⟩

/-- Environments that answer alike give the same answer, and answer alike after it. -/
theorem Environment.Alike.answer {e : Environment} (h : e.Alike e') (expBus : BusHandle) (a : Addr) (ops : List BusOp) :
    (e'.answer expBus a ops).1 = (e.answer expBus a ops).1 ∧
    (e.answer expBus a ops).2.Alike (e'.answer expBus a ops).2 := by
  have hlaw := (e.answer_keeps expBus a ops).2.2.trans h.law
  have hlaw' := (e'.answer_keeps expBus a ops).2.2.trans h.law'
  refine ⟨?_, hlaw, hlaw', ?_, ?_⟩ <;>
    simp only [Environment.answer, h.law, h.law', Environment.generalAnswer, Environment.nextReply, h.script, h.draws]

/-- One transaction on environments that answer alike. -/
theorem State.phys_parallel (h : s.env.Alike e') (b : BusHandle) (role : WireRole) (a : Addr) (ops : List BusOp) :
    ∃ f, (s.withEnv e').phys r b role a ops = ((s.phys r b role a ops).1, (s.phys r b role a ops).2.withEnv f) ∧
      (s.phys r b role a ops).2.env.Alike f ∧ f.pins = e'.pins ∧ f.absent = e'.absent := by
  obtain ⟨hreply, halike⟩ := h.answer s.cfg.expBus a ops
  obtain ⟨hpins, habsent, -⟩ := e'.answer_keeps s.cfg.expBus a ops
  refine ⟨(e'.answer s.cfg.expBus a ops).2, ?_, halike, hpins, habsent⟩
  simp only [State.phys, State.withEnv, hreply]

theorem State.acquire_withEnv (s : State) (e' : Environment) (r : Nat) :
    (s.withEnv e').acquire r = (s.acquire r).withEnv e' := by
  rcases s.acquire_cases r with ⟨hl, e⟩ | ⟨k, hl, e⟩ <;> rw [e]
  · exact State.acquire_of_free (s := s.withEnv e') hl
  · exact State.acquire_of_held (s := s.withEnv e') hl

theorem State.release_withEnv (s : State) (e' : Environment) (r : Nat) :
    (s.withEnv e').release r = (s.release r).withEnv e' := by
  have hl : (s.withEnv e').lock = s.lock := rfl
  rw [State.release, State.release, hl]
  split <;> rfl

theorem commandFinish_withEnv (i : Instr) (held : List Byte) (s : State) (e' : Environment) :
    commandFinish i held (s.withEnv e') = ((commandFinish i held s).1.withEnv e', (commandFinish i held s).2) := by
  cases i <;> rfl

theorem commandAdmission_withEnv (i : Instr) (s : State) (e' : Environment) (r : Nat) :
    commandAdmission i (s.withEnv e') r = commandAdmission i s r := by
  cases i <;> rfl

/-- A micro-step inside a bus operation on environments that answer alike. -/
theorem State.busMicro_parallel (h : s.env.Alike e') (b : BusStep) :
    State.Parallel e' (s.busMicro r b) ((s.withEnv e').busMicro r b) := by
  have hlock : (s.withEnv e').lock = s.lock := rfl
  have hseq : (s.withEnv e').seq r = s.seq r := rfl
  by_cases hl : s.lock = .held r
  · have sent {role : WireRole} {a : Addr} {ops : List BusOp} {act : Reply × State → State}
        (hok : ∀ x u f, act (x, u.withEnv f) = (act (x, u)).withEnv f) (hact : ∀ x u, (act (x, u)).env = u.env) :
        State.Parallel e' (act (s.phys r b.handle role a ops)) (act ((s.withEnv e').phys r b.handle role a ops)) := by
      obtain ⟨f, hphys, halike, hpins, habsent⟩ := State.phys_parallel (r := r) h b.handle role a ops
      refine ⟨f, ?_, ?_, hpins, habsent⟩
      · rw [hphys, hok]
      · rw [hact]; exact halike
    simp only [State.busMicro, hlock, hseq, if_pos hl]
    split
    · refine sent (act := fun x => match x with
        | (.ok _, s1) => s1.setSeq r { s1.seq r with selected := true }
        | (.err k, s1) => s1.raise r k
        | (.never, s1) => s1.hang r) ?_ ?_
      · intro x u f
        cases x with
        | ok | never => rfl
        | err k => simp only [State.raise, State.release_withEnv]; rfl
      · intro x u
        cases x <;> simp
    · refine sent (act := fun x => match x with
        | (.ok rx, s1) => (s1.release r).setSeq r (b.absorb rx (s1.seq r))
        | (.err k, s1) => s1.raise r k
        | (.never, s1) => s1.hang r) ?_ ?_
      · intro x u f
        cases x with
        | never => rfl
        | ok rx => simp only [State.release_withEnv]; rfl
        | err k => simp only [State.raise, State.release_withEnv]; rfl
      · intro x u
        cases x <;> simp
  · simp only [State.busMicro, hlock, if_neg hl]
    exact ⟨e', State.acquire_withEnv s e' r, by simpa using h, rfl, rfl⟩

/-- A micro-step on environments that answer alike: the same outcome. -/
theorem State.micro_parallel (h : s.env.Alike e') :
    State.Parallel e' (s.micro r i P) ((s.withEnv e').micro r i P) := by
  have hwait : (s.withEnv e').wait = s.wait := rfl
  have hseq : (s.withEnv e').seq r = s.seq r := rfl
  simp only [State.micro, State.microStep, hwait, hseq, commandAdmission_withEnv]
  split
  · exact .refl h
  · split
    · split
      · exact State.busMicro_parallel h _
      · refine ⟨e', ?_, by simpa using h, rfl, rfl⟩
        simp only [State.complete, hseq, commandFinish_withEnv]; rfl
    · split
      · split
        · refine ⟨e', ?_, by simpa using h, rfl, rfl⟩
          simp only [State.complete, hseq, commandFinish_withEnv]; rfl
        · exact ⟨e', rfl, h, rfl, rfl⟩
      · exact ⟨e', rfl, h, rfl, rfl⟩
      · exact .refl h

theorem State.turnOn_parallel (n : Nat) (h : s.env.Alike e') :
    State.Parallel e' (s.turnOn r i P n) ((s.withEnv e').turnOn r i P n) := by
  induction n generalizing s e' with
  | zero => exact .refl h
  | succ n ih =>
    have hreq : (s.withEnv e').req r = s.req r := rfl
    simp only [State.turnOn, State.advance, hreq]
    split
    · exact .refl h
    · obtain ⟨f, hf, halike, hpins, habsent⟩ := State.micro_parallel (r := r) (i := i) (P := P) h
      obtain ⟨f', hf', halike', hpins', habsent'⟩ := ih halike
      refine ⟨f', ?_, halike', hpins'.trans hpins, habsent'.trans habsent⟩
      rw [show State.microStep (s.withEnv e') r _ _ _ = _ from hf]
      exact hf'

end

end Sys2Proof.Machine
end

section
/-! The statements about whole commands: uninterrupted, resumed before a write, and on another record of the chips
(46_common_laws.md section 2, 70_reset_and_hazards.md section 3). -/

namespace Sys2Proof.Machine

/-- Settles O29: the micro-stepped machine goes through the states of a command in progress, to its end or to the
transaction that never completes. -/
theorem uninterruptedCommandsRunTheirPseudocode : Obligations.UninterruptedCommandsRunTheirPseudocode := by
  intro s s1 i r hu ha
  by_cases hnil : commandSteps s.cfg i = []
  · have hissue : s.mayIssue r 1 := by
      obtain ⟨⟨hturn, hr, hcmd, hwait, hbudget⟩, -⟩ := hu
      exact ⟨hturn, hr, hcmd, hwait, by omega⟩
    rw [hnil, State.runSteps]
    refine ⟨fun held e => ?_, fun k e => (by cases e), fun e => (by cases e)⟩
    cases e
    exact exec_of_no_steps hissue ha hnil
  · obtain ⟨hok, herr⟩ := exec_endsAs_runSteps hu ha hnil
    refine ⟨fun held e => hok held s1 e, fun k e => herr k s1 e, fun e => ?_⟩
    obtain ⟨hissue, hlock⟩ := hu
    obtain ⟨m, hm, hexec⟩ := exec_of_admitted hissue ha hnil
    obtain ⟨hresp, hport, idx, held, sel, hstuck⟩ := State.turnOn_runSteps_never (idx := 0) (n := m) (held := [])
      (commandSteps s.cfg i) ⟨hissue.2.1, hissue.2.2.2.1, hlock⟩ rfl (by omega) e
    rw [hexec, hstuck]
    exact ⟨_, rfl, rfl, State.stuckIn_cmd hport, State.stuckIn_hung hport, rfl, hresp, rfl⟩

/-- Settles O38: a command resumed before a write is a command in progress, and the write is one bus operation of it. -/
theorem staleByteIsWrittenBack : Obligations.StaleByteIsWrittenBack := by
  refine ⟨?_, fun P i => commandSteps_writesBehindReads P i, ?_⟩
  · intro s r i h a g mask set hturn hcmd hstarted hhung hselected hwait hlock hnext written
    have hu : s.Unblocked r := ⟨State.lt_of_cmd hcmd, hwait, hlock⟩
    have hin := State.eq_inCommand hcmd hstarted hhung hselected
    have hexec : exec i s = .next
        ((s.inCommand r i (s.seq r).idx (s.seq r).held).turnOn r i s.cfg s.turn.budget) := by
      rw [← hin]; exact exec_of_cmd (by rw [← hturn]) hcmd
    refine ⟨fun hbudget rx s1 hw => ⟨(hu.busOp hw).lockFree, ?_⟩, fun hbudget k s1 hw => ?_, fun hbudget hlast => ?_⟩
    · have hmicro : s.turn.budget = 0 + microStepsOn h := by rw [hbudget]; cases h <;> rfl
      obtain ⟨hok, -⟩ := State.turnOn_busOperation (n := 0) (held := (s.seq r).held) hu hnext hw
      have hport := State.req_of_reqs_eq (State.busOp_keeps hw).1 r
      have htmp := State.seq_of_reqs_eq (State.busOp_keeps hw).1 r
      refine (hexec.trans (congrArg Host.Outcome.next ?_))
      rw [hmicro]
      refine (hok rx rfl).trans ?_
      simp only [State.turnOn, State.advance, BusStep.keepTmp, BusStep.kept, List.append_nil, State.inCommand,
        State.setSeq, hport, htmp, hcmd, hstarted, hhung, hselected]
    · have hle := microStepsOn_le h
      obtain ⟨m, hm⟩ : ∃ m, s.turn.budget = m + microStepsOn h := ⟨s.turn.budget - microStepsOn h, by omega⟩
      obtain ⟨-, herr⟩ := State.turnOn_busOperation (n := m) (held := (s.seq r).held) hu hnext hw
      rw [hexec, hm]
      exact congrArg _ (herr k rfl)
    · have hrest : (commandSteps s.cfg i).drop (s.seq r).idx = [.writeTmp h a g mask set] := by
        obtain ⟨hlt, hget⟩ := List.getElem?_eq_some_iff.1 hnext
        rw [List.drop_eq_getElem_cons hlt, hget, hlast, List.drop_length]
      obtain ⟨hok, herr⟩ := State.turnOn_runSteps (held := (s.seq r).held) (n := s.turn.budget) _ hu hrest hbudget
      rw [State.endsAs, hexec]
      refine ⟨fun rx s1 hw => ?_, fun k s1 hw => ?_⟩
      · rw [hok (s.seq r).held s1 ?_]
        rw [State.runSteps_cons_ok (b := .writeTmp h a g mask set) hw]
        simp [State.runSteps, BusStep.kept, BusStep.keepTmp]
      · rw [herr k s1 (State.runSteps_cons_err (b := .writeTmp h a g mask set) hw)]
  · intro P p m d l k e i hi
    simp only [List.mem_cons, List.not_mem_nil, or_false] at hi
    rcases hi with rfl | rfl | rfl | rfl | rfl | rfl | rfl | rfl
    · exact ⟨_, _, _, _, _, rfl⟩
    · exact ⟨_, _, _, _, _, rfl⟩
    · exact ⟨_, _, _, _, _, rfl⟩
    · exact ⟨_, _, _, _, _, rfl⟩
    · exact ⟨_, _, _, _, _, rfl⟩
    · exact ⟨_, _, _, _, _, rfl⟩
    · exact ⟨_, _, _, _, _, rfl⟩
    · cases e <;> exact ⟨_, _, _, _, _, rfl⟩

/-- Settles O45: the two machines take the same outcome at every micro-step. -/
theorem recordedChipsDoNotSteer : Obligations.RecordedChipsDoNotSteer := by
  intro s t i e hlaw hlaw' hscript hdraws he
  have halike : s.env.Alike e := ⟨hlaw, hlaw', hscript, hdraws⟩
  have hparallel : State.Parallel e (s.runCommand i (commandAdmission i) (commandSteps s.cfg i) (commandFinish i))
      ((s.withEnv e).runCommand i (commandAdmission i) (commandSteps s.cfg i) (commandFinish i)) := by
    have hlen : (s.withEnv e).reqs.length = s.reqs.length := rfl
    have hturn : (s.withEnv e).turn = s.turn := rfl
    have hreq : (s.withEnv e).req s.turn.requester = s.req s.turn.requester := rfl
    simp only [State.runCommand, hlen, hturn, hreq]
    split
    · split
      · exact State.turnOn_parallel (s := s.load s.turn.requester i) s.turn.budget halike
      · split
        · exact State.turnOn_parallel s.turn.budget halike
        · exact .refl halike
    · exact .refl halike
  rw [exec_eq] at he
  injection he with he
  rw [he] at hparallel
  obtain ⟨f, hf, halike', hpins, habsent⟩ := hparallel
  exact ⟨f, (exec_eq i (s.withEnv e)).trans (congrArg _ hf), halike'.law', halike'.script, halike'.draws, hpins, habsent⟩

end Sys2Proof.Machine
end

section
/-! SUPPORT. Bus operations in one piece that hold nothing back, the read-modify-writes of one command after another,
and what each of them leaves of the local state (41_register_driver.md R150 to R157, 42_pin_identity_capability.md
R184 to R186). -/

namespace Sys2Proof.Machine

theorem levelBit_eq (l : Level) : levelBit l = decide (l = .high) := by cases l <;> rfl

section
variable {s s1 : State} {r : Nat} {i : Instr} {p : Pin} {base : Byte} {set : Bool} {x : Reply × State}

/-! ## Bus operations that hold nothing back -/

/-- A bus operation that neither uses nor writes `TMP` and keeps every byte it receives (R24, R25). -/
def BusStep.isPlain : BusStep → Prop
  | .forward _ _ _ | .readTmp _ _ _ | .writeTmp _ _ _ _ _ => False
  | .readKept _ _ _ | .writeReg _ _ _ _ | .readPorts _ _ => True

/-- What a plain bus operation sends: its handle, its address and its list (R60). -/
def BusStep.sends (b : BusStep) : BusHandle × Addr × List BusOp := (b.handle, b.addr, b.payload 0)

theorem BusStep.payload_of_isPlain {b : BusStep} (h : b.isPlain) (tmp : Byte) : b.payload tmp = b.payload 0 := by
  cases b with
  | forward | readTmp | writeTmp => exact h.elim
  | readKept | writeReg | readPorts => rfl

theorem BusStep.keepTmp_of_isPlain {b : BusStep} (h : b.isPlain) (rx : List Byte) : b.keepTmp rx r s = s := by
  cases b with
  | forward | readTmp | writeTmp => exact h.elim
  | readKept | writeReg | readPorts => rfl

theorem BusStep.kept_of_isPlain {b : BusStep} (h : b.isPlain) {tmp : Byte} {rx : List Byte}
    (e : s.busOp r b.handle b.addr (b.payload tmp) = (.ok rx, s1)) : b.kept rx = rx := by
  cases b with
  | forward | readTmp | writeTmp => exact h.elim
  | writeReg => exact (State.busOp_writeRegister e).symm
  | readKept | readPorts => rfl

/-- Plain bus operations in order are those operations on the wire, one after the other (R249). -/
theorem State.runSteps_of_plain (steps : List BusStep) (held : List Byte) (h : ∀ b ∈ steps, b.isPlain) :
    s.runSteps r steps held = s.busOps r (steps.map BusStep.sends) held := by
  induction steps generalizing s held with
  | nil => rfl
  | cons b rest ih =>
    have hb := h b List.mem_cons_self
    have hrest := fun c hc => h c (List.mem_cons_of_mem b hc)
    rcases hop : s.busOp r b.handle b.addr (b.payload (s.seq r).tmp) with ⟨answer, s1⟩
    have hsent : s.busOp r b.handle b.addr (b.payload 0) = (answer, s1) := by
      rw [← hop, BusStep.payload_of_isPlain hb (s.seq r).tmp]
    simp only [List.map_cons, BusStep.sends, State.busOps, hsent]
    cases answer with
    | ok rx =>
      rw [State.runSteps_cons_ok hop, BusStep.keepTmp_of_isPlain hb, BusStep.kept_of_isPlain hb hop]
      exact ih _ hrest
    | err k => exact State.runSteps_cons_err hop
    | never => exact State.runSteps_cons_never hop

/-- Bus operations in order deliver as many bytes as their reads ask for (R60). -/
theorem State.busOps_length (ops : List (BusHandle × Addr × List BusOp)) {received rx : List Byte}
    (e : s.busOps r ops received = (.ok rx, s1)) :
    rx.length = received.length + (ops.map fun op => readLength op.2.2).sum := by
  induction ops generalizing s received with
  | nil => cases e; rfl
  | cons op rest ih =>
    obtain ⟨h, a, list⟩ := op
    rcases hop : s.busOp r h a list with ⟨answer, s2⟩
    simp only [State.busOps, hop] at e
    cases answer with
    | ok bytes =>
      rw [ih e, List.length_append, State.busOp_length hop, List.map_cons, List.sum_cons, Nat.add_assoc]
    | err k | never => cases e

/-- A command of plain bus operations ends as those operations do (R24, R249). -/
theorem State.endsAs_busOps (hu : s.unhindered r (3 * (commandSteps s.cfg i).length + 2))
    (ha : commandAdmission i s r = .admitted) (hne : commandSteps s.cfg i ≠ [])
    (hplain : ∀ b ∈ commandSteps s.cfg i, b.isPlain) :
    s.endsAs r i (s.busOps r ((commandSteps s.cfg i).map BusStep.sends) []) (commandFinish i) := by
  rw [← State.runSteps_of_plain _ _ hplain]
  exact exec_endsAs_runSteps hu ha hne

/-! ## Read-modify-writes, one after the other -/

/-- The read-modify-write that follows an exchange, where that succeeded (R184, R249). -/
def rmwAfter (r : Nat) (p : Pin) (x : Reply × State) (base : Byte) (set : Bool) : Reply × State :=
  match x with
  | (.ok _, s1) => s1.rmw r p base set
  | other => other

/-- A list of bus operations, run by a requester of `s`, is the exchange `x`, which keeps no byte, and leaves the
parameters and the ports' number. -/
structure State.RunsAs (s : State) (r : Nat) (steps : List BusStep) (x : Reply × State) : Prop where
  runs : s.runSteps r steps [] = x
  keeps : ∀ rx s1, x = (.ok rx, s1) → rx = [] ∧ s1.cfg = s.cfg ∧ r < s1.reqs.length

/-- The bus operations of a read-modify-write are that read-modify-write in one piece (R152). -/
theorem State.RunsAs.rmw (hr : r < s.reqs.length) (p : Pin) (base : Byte) (set : Bool) :
    s.RunsAs r (rmwSteps s.cfg.expBus p base set) (s.rmw r p base set) := by
  rcases hread : s.busOp r s.cfg.expBus (chipAddr p.chip) [.write [portReg base p], .read 1] with ⟨answer, s1⟩
  obtain ⟨hreqs, -, -, hcfg⟩ := State.busOp_keeps hread
  cases answer with
  | ok rx =>
    obtain ⟨v, rfl⟩ := State.busOp_readRegister hread
    simp only [State.rmw, hread, List.headD_cons]
    refine ⟨State.runSteps_rmwSteps_ok hr hread, fun rx s2 hwrite => ?_⟩
    obtain ⟨hreqs', -, -, hcfg'⟩ := State.busOp_keeps hwrite
    refine ⟨State.busOp_writeRegister hwrite, hcfg'.trans hcfg, ?_⟩
    simpa [hreqs', hreqs, State.setTmp] using hr
  | err k =>
    simp only [State.rmw, hread]
    exact ⟨State.runSteps_rmwSteps_err hread, fun _ _ e => by cases e⟩
  | never =>
    simp only [State.rmw, hread]
    exact ⟨State.runSteps_cons_never (b := .readTmp s.cfg.expBus (chipAddr p.chip) (portReg base p)) hread,
      fun _ _ e => by cases e⟩

theorem State.runSteps_append (xs ys : List BusStep) (held : List Byte) :
    s.runSteps r (xs ++ ys) held =
      match s.runSteps r xs held with
      | (.ok held', s1) => s1.runSteps r ys held'
      | other => other := by
  induction xs generalizing s held with
  | nil => rfl
  | cons b rest ih =>
    rcases hop : s.busOp r b.handle b.addr (b.payload (s.seq r).tmp) with ⟨answer, s1⟩
    cases answer with
    | ok rx => rw [List.cons_append, State.runSteps_cons_ok hop, State.runSteps_cons_ok hop]; exact ih _
    | err k => rw [List.cons_append, State.runSteps_cons_err hop, State.runSteps_cons_err hop]
    | never => rw [List.cons_append, State.runSteps_cons_never hop, State.runSteps_cons_never hop]

/-- One more read-modify-write at the end of a list of bus operations (R184 to R186, R243). -/
theorem State.RunsAs.rmwAfter {steps : List BusStep} (h : s.RunsAs r steps x) (p : Pin) (base : Byte) (set : Bool) :
    s.RunsAs r (steps ++ rmwSteps s.cfg.expBus p base set) (rmwAfter r p x base set) := by
  obtain ⟨hruns, hkeeps⟩ := h
  obtain ⟨answer, s1⟩ := x
  cases answer with
  | ok rx =>
    obtain ⟨rfl, hcfg, hr⟩ := hkeeps rx s1 rfl
    obtain ⟨hruns', hkeeps'⟩ := State.RunsAs.rmw hr p base set
    refine ⟨?_, fun rx s2 e => ?_⟩
    · rw [State.runSteps_append, hruns, ← hcfg]; exact hruns'
    · obtain ⟨hrx, hcfg', hr'⟩ := hkeeps' rx s2 e
      exact ⟨hrx, hcfg'.trans hcfg, hr'⟩
  | err k => exact ⟨by rw [State.runSteps_append, hruns]; rfl, fun _ _ e => by cases e⟩
  | never => exact ⟨by rw [State.runSteps_append, hruns]; rfl, fun _ _ e => by cases e⟩

/-- A command that keeps no byte ends as its bus operations do; its local update may read the parameters, which they
leave (R23, R249). -/
theorem State.RunsAs.endsAs {answer : List Byte → State → State × List Byte}
    (h : s.RunsAs r (commandSteps s.cfg i) x) (hu : s.unhindered r (3 * (commandSteps s.cfg i).length + 2))
    (ha : commandAdmission i s r = .admitted) (hne : commandSteps s.cfg i ≠ [])
    (hfinish : ∀ t, t.cfg = s.cfg → commandFinish i [] t = answer [] t) : s.endsAs r i x answer := by
  obtain ⟨hruns, hkeeps⟩ := h
  obtain ⟨hok, herr⟩ := exec_endsAs_runSteps hu ha hne
  rw [hruns] at hok herr
  refine ⟨fun rx s1 e => ?_, herr⟩
  obtain ⟨rfl, hcfg, -⟩ := hkeeps rx s1 e
  rw [hok [] s1 e, hfinish s1 hcfg]

/-- A read-modify-write leaves the local state as it is (R152). -/
theorem State.rmw_keeps_local {answer : Reply} (e : s.rmw r p base set = (answer, s1)) :
    s1.hex = s.hex ∧ s1.cap = s.cap := by
  rcases hread : s.busOp r s.cfg.expBus (chipAddr p.chip) [.write [portReg base p], .read 1] with ⟨reply, s2⟩
  obtain ⟨-, hhex, hcap, -⟩ := State.busOp_keeps_local hread
  simp only [State.rmw, hread] at e
  cases reply with
  | ok rx =>
    obtain ⟨-, hhex', hcap', -⟩ := State.busOp_keeps_local e
    exact ⟨hhex'.trans hhex, hcap'.trans hcap⟩
  | err k | never => cases e; exact ⟨hhex, hcap⟩

end

/-! ## The chips of the reference environment -/

section
variable {e : Environment} {expBus : BusHandle} {c : Fin 3} {g v : Byte}

theorem chipOfAddr_chipAddr (c : Fin 3) : chipOfAddr (chipAddr c) = some c := chipOfAddr_eq_some.2 rfl

/-- A chip that is reached shows its register and takes a write (95_test_vectors.md section 2). -/
theorem Environment.referenceAnswer_read (h : e.reaches expBus c = true) :
    e.referenceAnswer expBus (chipAddr c) [.write [g], .read 1] = (.ok [e.referenceRead c g], e) := by
  simp [Environment.referenceAnswer, chipAddr_ne_muxAddr, chipOfAddr_chipAddr, h]

theorem Environment.referenceAnswer_write (h : e.reaches expBus c = true) :
    e.referenceAnswer expBus (chipAddr c) [.write [g, v]] = (.ok [], e.referenceWrite c g v) := by
  simp [Environment.referenceAnswer, chipAddr_ne_muxAddr, chipOfAddr_chipAddr, h]

/-- What a chip shows after a write to a register that stores. -/
theorem Environment.referenceRead_referenceWrite (hinput : isInputReg g = false) (hid : g ≠ regId) (c' : Fin 3)
    (g' : Byte) : (e.referenceWrite c g v).referenceRead c' g' =
      if c' = c ∧ g' = g then v else e.referenceRead c' g' := by
  have hwrite : e.referenceWrite c g v = e.setReg c g v := by simp [Environment.referenceWrite, hinput, hid]
  by_cases hg : g' = regId
  · have hne : ¬ (c' = c ∧ g' = g) := fun h => hid (h.2 ▸ hg)
    simp only [Environment.referenceRead, if_pos hg, if_neg hne]
  · simp only [Environment.referenceRead, if_neg hg, hwrite, Environment.reg_setReg, hinput, and_true]

/-- The reference environment when a bus operation on the handle `h` sends its payload: on a channel the select write
has been taken (95_test_vectors.md section 2, R132). -/
def Environment.connect (e : Environment) : BusHandle → Environment
  | .direct => e
  | .channel n => { e with muxsel := selectByte n }

theorem bitOf_selectByte (n : Fin 8) : bitOf (selectByte n) n = true := by
  revert n; decide

theorem Environment.reaches_connect (h : c ∉ e.absent) : (e.connect expBus).reaches expBus c = true := by
  cases expBus with
  | direct => simp [Environment.connect, Environment.reaches, h]
  | channel n => simp [Environment.connect, Environment.reaches, h, bitOf_selectByte]

theorem Environment.connect_keeps (e : Environment) (h : BusHandle) :
    (e.connect h).law = e.law ∧ (e.connect h).absent = e.absent := by cases h <;> exact ⟨rfl, rfl⟩

theorem Environment.referenceRead_connect (h : BusHandle) : (e.connect h).referenceRead c g = e.referenceRead c g := by
  cases h <;> rfl

theorem Environment.answer_of_reference (hlaw : e.law = .reference) (a : Addr) (ops : List BusOp) :
    e.answer expBus a ops = e.referenceAnswer expBus a ops := by rw [Environment.answer, hlaw]

/-- A bus operation in the reference environment is the answer to its payload, whatever was selected before. -/
theorem State.busOp_reference {s : State} (hlaw : s.env.law = .reference) (r : Nat) (h : BusHandle) (a : Addr)
    (ops : List BusOp) : ∃ s1,
      s.busOp r h a ops = (((s.env.connect h).referenceAnswer s.cfg.expBus a ops).1, s1) ∧
      s1.env = ((s.env.connect h).referenceAnswer s.cfg.expBus a ops).2 := by
  cases h with
  | direct =>
    rw [Environment.connect, ← Environment.answer_of_reference hlaw]
    exact ⟨_, rfl, rfl⟩
  | channel n =>
    have hselect : s.env.answer s.cfg.expBus muxAddr [.write [selectByte n]] = (.ok [], s.env.connect (.channel n)) := by
      simp [Environment.answer_of_reference hlaw, Environment.referenceAnswer, Environment.connect]
    have hlaw' : (s.env.connect (.channel n)).law = .reference := hlaw
    rw [← Environment.answer_of_reference hlaw']
    simp only [State.busOp, State.phys, hselect]
    exact ⟨_, rfl, rfl⟩

end

end Sys2Proof.Machine
end

section
/-! The statements about the bus commands and the register driver (40_bus_ops.md section 2, 41_register_driver.md). -/

namespace Sys2Proof.Machine

/-- A command of the host's own list is one bus operation (R135 to R138). -/
theorem State.endsAs_forward {s : State} {r : Nat} {i : Instr} {h : BusHandle} {a : Addr} {ops : List BusOp}
    (hu : s.unhindered r 5) (hsteps : commandSteps s.cfg i = [.forward h a ops])
    (ha : commandAdmission i s r = .admitted) : s.endsAs r i (s.busOp r h a ops) (commandFinish i) := by
  have hends := exec_endsAs_runSteps (i := i) (by rw [hsteps]; exact hu) ha (by simp [hsteps])
  rwa [hsteps, State.runSteps_singleton (b := .forward h a ops) fun _ _ _ => ⟨rfl, rfl⟩] at hends

theorem descriptorsNonempty_of_lengths {ops : List BusOp} (hne : ops ≠ [])
    (h : ∀ op ∈ ops, op ≠ .read 0 ∧ op ≠ .write []) : descriptorsNonempty ops = true := by
  have hops : ∀ op ∈ ops, descriptorNonempty op = true := fun op hop => by
    obtain ⟨hread, hwrite⟩ := h op hop
    cases op with
    | write d => simpa [descriptorNonempty] using hwrite
    | read len => simpa [descriptorNonempty] using hread
  simp [descriptorsNonempty, hne, List.all_eq_true.2 hops]

/-- Settles O30: each of the four is one bus operation with the host's own list. -/
theorem busCommandsForwardTheHostsOperations : Obligations.BusCommandsForwardTheHostsOperations := by
  intro s r h a hu
  refine ⟨fun n hn => ?_, fun w hw => ?_, fun w n hw hn => ?_, fun ops hne hops => ?_⟩
  · exact State.endsAs_forward (i := .busRead h a n) hu rfl (by simpa [commandAdmission, admitIf] using hn)
  · exact State.endsAs_forward (i := .busWrite h a w) hu rfl (by simp [commandAdmission, admitIf, hw])
  · exact State.endsAs_forward (i := .busWriteRead h a w n) hu rfl (by simpa [commandAdmission, admitIf, hw] using hn)
  · exact State.endsAs_forward (i := .busTransaction h a ops) hu rfl
      (by rw [commandAdmission, descriptorsNonempty_of_lengths hne hops]; rfl)

/-- Settles O34: four plain bus operations, of which the first delivers the one byte. -/
theorem chipInitialisation : Obligations.ChipInitialisation := by
  intro s r c hu
  have hends := State.endsAs_busOps (i := .chipInit c) hu rfl (by simp [commandSteps, chipInitSteps])
    (by simp [commandSteps, chipInitSteps, BusStep.isPlain])
  rw [← chipAddr_eq]
  exact ⟨hends, fun rx s1 e => List.length_eq_one_iff.1 (State.busOps_length _ e)⟩

/-- Settles O51: three plain bus operations, of two bytes each. -/
theorem snapshotRead : Obligations.SnapshotRead := by
  intro s r hu
  have hends := State.endsAs_busOps (i := .snapRead) hu rfl (by simp [commandSteps, snapReadSteps])
    (by simp [commandSteps, snapReadSteps, BusStep.isPlain])
  exact ⟨hends, fun rx s1 e => State.busOps_length _ e⟩

/-- Settles O37: a read-modify-write of OUTPUT. -/
theorem pinSetState : Obligations.PinSetState := by
  intro s r p l hu
  rw [← levelBit_eq]
  exact State.readsModifiesWrites_of_steps (base := 0x02) hu rfl rfl rfl

/-- Settles O40: one register write of the duty of the fraction, which is admitted exactly where it is allowed. -/
theorem pinFractionalDuty : Obligations.PinFractionalDuty := by
  intro s r p
  refine ⟨fun num den hu hd hn => ?_, fun num den hissue hfrac => ?_, fun pct hu _ => ?_⟩
  · have ha : commandAdmission (.pinSetDutyFrac p num den) s r = .admitted := by
      rw [commandAdmission, (fracAllowed_iff num den).2 ⟨hd, hn⟩]; rfl
    rw [← dimReg_eq_dimTable]
    exact State.writesRegister_of_steps hu ha rfl rfl
  · refine isRefused_of_refused hissue ?_
    rw [commandAdmission, fracAllowed_eq_false hfrac]; rfl
  · rw [← dimReg_eq_dimTable]
    exact State.writesRegister_of_steps hu rfl rfl rfl

/-- A read-modify-write of a storing register of a chip that is present changes, in the reference environment, what
that one register shows. -/
theorem State.readsModifiesWrites.reference {s : State} {r : Nat} {i : Instr} {c : Fin 3} {g : Byte}
    {change : Byte → Byte} (h : s.readsModifiesWrites r i (chipAddr c) g change) (hr : r < s.reqs.length)
    (hlock : s.lock = .free) (hlaw : s.env.law = .reference) (hc : c ∉ s.env.absent) (hinput : isInputReg g = false)
    (hid : g ≠ regId) : ∃ t, exec i s = .next t ∧ (t.req r).res = [0x00] ∧ t.lock = .free ∧
      ∀ (c' : Fin 3) (g' : Byte), t.env.referenceRead c' g' =
        if c' = c ∧ g' = g then change (s.env.referenceRead c' g') else s.env.referenceRead c' g' := by
  obtain ⟨s1, hread, henv1⟩ := State.busOp_reference hlaw r s.cfg.expBus (chipAddr c) [.write [g], .read 1]
  rw [Environment.referenceAnswer_read (Environment.reaches_connect hc)] at hread henv1
  obtain ⟨hreqs1, -, hlock1, hcfg1⟩ := State.busOp_keeps hread
  obtain ⟨v, hv, hok, -⟩ := h.2 _ s1 hread
  have hlaw1 : (s1.setTmp r v).env.law = .reference := by
    rw [State.setTmp_env, henv1, (s.env.connect_keeps s.cfg.expBus).1, hlaw]
  have hc1 : c ∉ (s1.setTmp r v).env.absent := by
    rw [State.setTmp_env, henv1, (s.env.connect_keeps s.cfg.expBus).2]; exact hc
  obtain ⟨s2, hwrite, henv2⟩ := State.busOp_reference hlaw1 r s.cfg.expBus (chipAddr c) [.write [g, change v]]
  rw [State.setTmp_cfg, hcfg1, Environment.referenceAnswer_write (Environment.reaches_connect hc1)] at hwrite henv2
  obtain ⟨hreqs2, -, hlock2, -⟩ := State.busOp_keeps hwrite
  refine ⟨_, hok [] s2 hwrite, ?_, ?_, fun c' g' => ?_⟩
  · rw [State.respond_req _ _ _ (by simpa [hreqs2, hreqs1, State.setTmp] using hr)]
  · rw [State.respond_lock, hlock2, State.setTmp_lock, hlock1, hlock]
  · have hshown : s.env.referenceRead c g = v := by
      rw [Environment.referenceRead_connect] at hv
      simpa using hv
    rw [State.respond_env, henv2, Environment.referenceRead_referenceWrite hinput hid]
    simp only [Environment.referenceRead_connect, State.setTmp_env, henv1]
    split
    · rename_i hsame
      rw [hsame.1, hsame.2, hshown]
    · rfl

/-- The registers of the three pin commands store, and each lies its port's number behind its base. -/
theorem portReg_stores {base : Byte} (hbase : base = 0x12 ∨ base = 0x04 ∨ base = 0x02) (p : Pin) :
    isInputReg (portReg base p) = false ∧ portReg base p ≠ regId ∧
    (portReg base p).toNat = base.toNat + p.port.val := by
  have stores : ∀ port : Fin 2, let g := portReg base ⟨0, port, 0⟩
      isInputReg g = false ∧ g ≠ regId ∧ g.toNat = base.toNat + port.val := by
    rcases hbase with rfl | rfl | rfl <;> decide
  exact stores p.port

/-- Settles O44: the read-modify-write of the pin's register, in an environment that shows what was written. -/
theorem referenceChipsTakeOneBit : Obligations.ReferenceChipsTakeOneBit := by
  intro s r p i base set hu hlaw hc hi
  have hrmw : (base = 0x12 ∨ base = 0x04 ∨ base = 0x02) ∧
      s.readsModifiesWrites r i (chipAddr p.chip) (portReg base p) (withBit p set) := by
    rcases hi with ⟨m, rfl, rfl, hset⟩ | ⟨d, rfl, rfl, hset⟩ | ⟨l, rfl, rfl, hset⟩
    · refine ⟨.inl rfl, ?_⟩
      rw [portReg_eq, show set = decide (m = .gpio) by simp [← hset]]
      exact pinSetMode.1 s r p m hu
    · refine ⟨.inr (.inl rfl), ?_⟩
      rw [portReg_eq, show set = decide (d = .input) by simp [← hset]]
      exact pinSetDirection.1 s r p d hu
    · refine ⟨.inr (.inr rfl), ?_⟩
      rw [portReg_eq, show set = decide (l = .high) by simp [← hset]]
      exact pinSetState s r p l hu
  obtain ⟨hbase, hrmw⟩ := hrmw
  obtain ⟨hinput, hid, hnumber⟩ := portReg_stores hbase p
  obtain ⟨⟨-, hr, -⟩, hlock⟩ := hu
  obtain ⟨t, hexec, hres, hfree, hshows⟩ := hrmw.reference hr hlock hlaw hc hinput hid
  refine ⟨t, hexec, hres, hfree, fun c g => ?_⟩
  rw [hshows]
  simp only [← hnumber, BitVec.toNat_inj]

end Sys2Proof.Machine
end

section
/-! The statements about the capability handles and the slots (42_pin_identity_capability.md section 2,
45_hexpansion.md section 3). -/

namespace Sys2Proof.Machine

theorem State.unhindered_mono {s : State} {r m n : Nat} (h : s.unhindered r n) (hm : m ≤ n) : s.unhindered r m := by
  obtain ⟨⟨hturn, hr, hcmd, hwait, hbudget⟩, hlock⟩ := h
  exact ⟨⟨hturn, hr, hcmd, hwait, hm.trans hbudget⟩, hlock⟩

/-- Settles O47: two read-modify-writes, and the tag at the end. -/
theorem capabilityConversions : Obligations.CapabilityConversions := by
  intro s r p hu hdetect hidle _
  have ⟨⟨_, hr, _⟩, _⟩ := hu
  have hmode := State.RunsAs.rmw hr p 0x12
  have admitted (tag : CapTag) (ht : s.capOf p ≠ tag) : s.admitCap r p (· != tag) = .admitted :=
    State.admitCap_of_tag hdetect hidle (by simpa using ht)
  refine ⟨fun ht => ?_, fun ht => ?_, fun ht => ?_, fun base set x s1 e => (State.rmw_keeps_local e).2⟩
  · exact State.RunsAs.endsAs (i := .capIntoOutput p) ((hmode true).rmwAfter p 0x04 false) hu (admitted .output ht)
      (by simp [commandSteps, capIntoOutputSteps, rmwSteps]) fun _ _ => rfl
  · exact State.RunsAs.endsAs (i := .capIntoInput p) ((hmode true).rmwAfter p 0x04 true) hu (admitted .input ht)
      (by simp [commandSteps, capIntoInputSteps, rmwSteps]) fun _ _ => rfl
  · have hlength := commandSteps_capIntoLed_length s.cfg p
    have hne : commandSteps s.cfg (.capIntoLed p) ≠ [] := by simp [commandSteps, capIntoLedSteps, rmwSteps]
    have hturn : s.unhindered r (3 * (commandSteps s.cfg (.capIntoLed p)).length + 2) :=
      State.unhindered_mono hu (by rw [hlength]; split <;> omega)
    refine State.RunsAs.endsAs (i := .capIntoLed p) ?_ hturn (admitted .led ht) hne fun _ _ => rfl
    simp only [commandSteps, capIntoLedSteps]
    cases hdir : s.cfg.ledDirWrite with
    | none => rw [if_neg (by simp), List.append_nil]; exact hmode false
    | output => rw [if_pos rfl]; exact (hmode false).rmwAfter p 0x04 false

/-- Settles O48: with the handle's tag each use is admitted, and is the register driver's operation. -/
theorem capabilityUses : Obligations.CapabilityUses := by
  intro s r p hu hdetect hidle
  have admitted {tag : CapTag} (ht : s.capOf p = tag) : s.admitCap r p (· == tag) = .admitted :=
    State.admitCap_of_tag hdetect hidle (by simpa using ht)
  have hu5 : s.unhindered r 5 := State.unhindered_mono hu (by omega)
  refine ⟨fun l ht => ?_, fun ht => ?_, fun ht => ?_⟩
  · rw [← levelBit_eq]
    exact State.readsModifiesWrites_of_steps (i := .capOutSet p l) (base := 0x02) hu (admitted ht) rfl rfl
  · have hends := exec_endsAs_runSteps (i := .capInRead p) hu5 (admitted ht) (by simp [commandSteps, capInReadSteps])
    rw [commandSteps, capInReadSteps, State.runSteps_readKept, portReg_eq] at hends
    exact hends
  · rw [← dimReg_eq_dimTable]
    refine ⟨fun d => ?_, fun num den hd hn => ?_, fun pct _ => ?_⟩
    · exact State.writesRegister_of_steps (i := .capLedDuty p d) hu5 (admitted ht) rfl rfl
    · have ha : commandAdmission (.capLedDutyFrac p num den) s r = .admitted := by
        rw [commandAdmission, admitted ht, (fracAllowed_iff num den).2 ⟨hd, hn⟩]; rfl
      exact State.writesRegister_of_steps hu5 ha rfl rfl
    · exact State.writesRegister_of_steps (i := .capLedDutyPct p pct) hu5 (admitted ht) rfl rfl

/-- Settles O59: two or three read-modify-writes of the detect pin, and its tag and the slot at the end. -/
theorem slotEnabling : Obligations.SlotEnabling := by
  intro s r k hu hidle p _
  have ⟨⟨_, hr, _⟩, _⟩ := hu
  have hmode := State.RunsAs.rmw hr p 0x12 true
  have hne (e : Bool) : commandSteps s.cfg (.hexSetEnabled k e) ≠ [] := by
    cases e <;> simp [commandSteps, hexSetEnabledSteps, rmwSteps]
  have hfinish (e : Bool) (t : State) (hcfg : t.cfg = s.cfg) : commandFinish (.hexSetEnabled k e) [] t =
      ({ t.setCap p (if e then .input else .output) with
          hex := t.hex.set k (if e then .untracked else .disabled false) }, []) := by
    simp only [commandFinish, finishSetEnabled, hcfg]; rfl
  refine ⟨?_, ?_, fun base set x s1 e => State.rmw_keeps_local e⟩
  · exact State.RunsAs.endsAs (i := .hexSetEnabled k true) (hmode.rmwAfter p 0x04 true)
      (State.unhindered_mono hu (by simp [commandSteps, hexSetEnabledSteps, rmwSteps]))
      (State.admitHex_of_idle hidle) (hne true) (hfinish true)
  · have hruns := (hmode.rmwAfter p 0x04 false).rmwAfter p 0x02 true
    rw [List.append_assoc] at hruns
    exact State.RunsAs.endsAs (i := .hexSetEnabled k false) hruns hu (State.admitHex_of_idle hidle) (hne false)
      (hfinish false)

end Sys2Proof.Machine
end
